-- ==== Sys2Proof/Word.lean ====
section
/-! DEFINITION. The vocabulary of the block: word types, line levels, rows, buttons, key codes, edges and named
durations (spec/00_scope.md R9, R11; spec/30_encoding.md R53, R59, R63). -/

namespace Sys2Proof

/-- An 8-bit value: a raw row value or the stages of the shift register (R23, R25). -/
abbrev Byte := BitVec 8

/-- An operation word (R65). -/
abbrev OpWord := BitVec 8

/-- A button vector: bit `b` stands for the button of index `b` (R61). -/
abbrev ButtonVec := BitVec 24

/-- The level of a line (R9). -/
inductive Level where
  | low
  | high
  deriving DecidableEq, Repr, Inhabited

/-- The three rows (R11). There is no fourth: the selector (LOW, LOW) has no row (R56). -/
inductive Row where
  | AH
  | IN
  | CMD
  deriving DecidableEq, Repr, Inhabited

/-- The 21 logical buttons (R59, R83; 90_conflicts.md C1), in the order of their indices. -/
inductive LogicalButton where
  | H | G | F | E | D | C | B | A
  | N | M | L | K | J | I
  | RON | RIICHI | CHI | PON | KAN | ST | SEL
  deriving DecidableEq, Repr, Inhabited

/-- A key code, kept symbolic (R63): a printable character or one of three named modifiers. -/
inductive KeyCode where
  | char (c : Char)
  | leftShift
  | leftAlt
  | leftCtrl
  deriving DecidableEq, Repr, Inhabited

/-- The values of the parameter LATCH_EDGE (R8). -/
inductive Edge where
  | rising
  | falling
  deriving DecidableEq, Repr, Inhabited

/-- The named durations of R8. They stay names: the spec gives no number for any of them (D16). -/
inductive Duration where
  | guardDelay
  | tSelSetup
  | tLatchHigh
  | tClkHigh
  | tSample
  deriving DecidableEq, Repr, Inhabited

end Sys2Proof
end

