-- ==== Sys2Proof/Syntax.lean ====
section
/-! DEFINITION. The nine operations of the block, one constructor per row of spec/opcode_table.json
(spec/30_encoding.md R66). -/

namespace Sys2Proof

/-- The operations (R3). The row of SELECT and READROW is one of three names, so that the selector (LOW, LOW) cannot
be spelt (R56). -/
inductive Instr where
  /-- `SELECT r` (R75). -/
  | select (r : Row)
  /-- `LATCH` (R76). -/
  | latch
  /-- `SAMPLE` (R77). -/
  | sample
  /-- `CLOCK` (R78). -/
  | clock
  /-- `READROW r` (R79). -/
  | readRow (r : Row)
  /-- `DECODE` (R85). -/
  | decode
  /-- `ADVANCE` (R89). -/
  | advance
  /-- `GUARD` (R93). -/
  | guard
  /-- `POLL` (R99). -/
  | poll
  deriving DecidableEq, Repr

end Sys2Proof
end

