-- ==== Sys2Proof/WellFormed.lean ====
section
/-! DEFINITION. Which operation words are legal (spec/30_encoding.md R65, R66, R68), said without the decoder. An
`Instr` needs no check of its own: every constructor's operands are legal by their types (R56). -/

namespace Sys2Proof

/-- The opcode nibble is one of 0x1 to 0x9 (R66). -/
def WellFormed.opcodeLegal (w : OpWord) : Bool :=
  decide (1 ≤ w.toNat / 16 ∧ w.toNat / 16 ≤ 9)

/-- The operation takes a row: SELECT (0x1) or READROW (0x5) (R65). -/
def WellFormed.takesRow (w : OpWord) : Bool :=
  decide (w.toNat / 16 = 1 ∨ w.toNat / 16 = 5)

/-- The reserved operand bits are 0: bits 3 and 2 of a word that takes a row, bits 3 to 0 of every other (R65). -/
def WellFormed.reservedZero (w : OpWord) : Bool :=
  if WellFormed.takesRow w then decide (w.toNat % 16 / 4 = 0) else decide (w.toNat % 16 = 0)

/-- The selector of a word that takes a row is not 0b00, the forbidden (LOW, LOW) (R53, R56). -/
def WellFormed.selectorLegal (w : OpWord) : Bool :=
  !WellFormed.takesRow w || decide (w.toNat % 4 ≠ 0)

/-- A legal operation word: one of the 13 of R66. -/
def WellFormed.word (w : OpWord) : Bool :=
  WellFormed.opcodeLegal w && WellFormed.reservedZero w && WellFormed.selectorLegal w

end Sys2Proof
end

