-- ==== Sys2Proof/Decode.lean ====
section
/-! DEFINITION. Line levels as bits, the row selector's levels, the decoder of operation words and, after it, their
encoder (spec/30_encoding.md R53 to R56, R65 to R69). -/

namespace Sys2Proof

/-- `bit(lv)`: HIGH is 1 and LOW is 0 (R9). -/
def Level.bit : Level → Bool
  | .low => false
  | .high => true

/-- `level(b)`, the inverse of `bit` (R9). -/
def Level.ofBit : Bool → Level
  | false => .low
  | true => .high

/-- `levels(r)`: the levels of the pair (SEL_AH, SEL_IN) that select row `r` (R53, R54). -/
def Row.levels : Row → Level × Level
  | .AH => (.low, .high)
  | .IN => (.high, .low)
  | .CMD => (.high, .high)

/-- `sel_row(a, n)`: the row a pair of select levels selects; `none` at (LOW, LOW), where it is undefined (R55). -/
def selRow : Level → Level → Option Row
  | .low, .high => some .AH
  | .high, .low => some .IN
  | .high, .high => some .CMD
  | .low, .low => none

/-- The 2-bit selector field of a row: `s[1] = bit(SEL_AH)` and `s[0] = bit(SEL_IN)` (R53). -/
def Row.selector (r : Row) : BitVec 2 :=
  BitVec.ofBool r.levels.1.bit ++ BitVec.ofBool r.levels.2.bit

/-- The row of a selector field; `none` for 0b00 (R56, R67). -/
def rowOfSelector (s : BitVec 2) : Option Row :=
  selRow (Level.ofBit (s.getLsbD 1)) (Level.ofBit (s.getLsbD 0))

/-- Why a word spells no operation (R67, R108 codes 8 to 10). -/
inductive DecodeRefusal where
  /-- R_ILLEGAL_OPCODE -/
  | illegalOpcode
  /-- R_RESERVED_BITS -/
  | reservedBits
  /-- R_SELECTOR_LOWLOW -/
  | selectorLowLow
  deriving DecidableEq, Repr

/-- `op[7:4]` (R65). -/
def opcodeOf (w : OpWord) : BitVec 4 := w.extractLsb' 4 4

/-- `op[3:0]` (R65). -/
def operandOf (w : OpWord) : BitVec 4 := w.extractLsb' 0 4

/-- The operation of an opcode that takes no operand (the last map of R67's `decode_op`). -/
def plainOp (opc : BitVec 4) : Except DecodeRefusal Instr :=
  if opc = 0x2 then .ok .latch
  else if opc = 0x3 then .ok .sample
  else if opc = 0x4 then .ok .clock
  else if opc = 0x6 then .ok .decode
  else if opc = 0x7 then .ok .advance
  else if opc = 0x8 then .ok .guard
  else if opc = 0x9 then .ok .poll
  else .error .illegalOpcode

/-- `decode_op` (R67): total over all 256 words, its checks in the order of the rule. -/
def decodeOp (w : OpWord) : Except DecodeRefusal Instr :=
  let opc := opcodeOf w
  let opd := operandOf w
  if opc = 0x0 ∨ 0xA ≤ opc then .error .illegalOpcode
  else if opc = 0x1 ∨ opc = 0x5 then
    if opd.extractLsb' 2 2 ≠ 0 then .error .reservedBits
    else
      match rowOfSelector (opd.extractLsb' 0 2) with
      | none => .error .selectorLowLow
      | some r => .ok (if opc = 0x1 then .select r else .readRow r)
  else if opd ≠ 0 then .error .reservedBits
  else plainOp opc

/-- The decoder on a table row's bits: an operation word is one byte, so bits above the eighth belong to no
instruction of this block and the first byte decides. -/
def decodeTableWord (nbits w : Nat) : Option Instr :=
  match decodeOp (BitVec.ofNat 8 (w % 2 ^ nbits)) with
  | .ok i => some i
  | .error _ => none

/-- The opcode nibble of an operation (R66). -/
def opcode : Instr → BitVec 4
  | .select _ => 0x1
  | .latch => 0x2
  | .sample => 0x3
  | .clock => 0x4
  | .readRow _ => 0x5
  | .decode => 0x6
  | .advance => 0x7
  | .guard => 0x8
  | .poll => 0x9

/-- The operand nibble: the selector of SELECT and READROW, with 0b00 above it; 0b0000 for every other (R65). -/
def operand : Instr → BitVec 4
  | .select r => 0#2 ++ r.selector
  | .readRow r => 0#2 ++ r.selector
  | .latch => 0
  | .sample => 0
  | .clock => 0
  | .decode => 0
  | .advance => 0
  | .guard => 0
  | .poll => 0

/-- The word of an operation (R65, R66). -/
def encode (i : Instr) : OpWord := opcode i ++ operand i

end Sys2Proof
end

