-- ==== Sys2Proof/Config.lean ====
section
/-! DEFINITION. What the spec leaves open, as constants without a body: the environment's draws, the values no rule
fixes, and the OPEN parameters of spec/00_scope.md R8. A statement about any of them holds for every value. -/

namespace Sys2Proof

/-- FREE VALUE (log entry 1). The level pattern at the selected row's eight parallel inputs at the draw of the given
number, for a draw that `State.env.pins` does not supply: `Env.rowPins(r)` of R10 and R58. -/
opaque Config.rowPins : Nat → Row → Byte

/-- FREE VALUE (log entry 1). The shift register's serial input at the draw of the given number, for a draw that
`State.env.serial` does not supply: `Env.serialIn()` of R10 and R74. -/
opaque Config.serialIn : Nat → Bool

/-- FREE VALUE (log entry 5). The level of DATA while SR_VALID = 0 (R22, 93_implementation_defined.md I7). -/
opaque Config.floatingData : Nat → Level

/-- FREE VALUE (log entry 4). The eight bits of RAW right after a LATCH, which makes them unwritten (R76, I8). -/
opaque Config.unwrittenRaw : Nat → Byte

/-- FREE VALUE (log entry 6). KEYMAP at a slot that carries no button (R62, I10). -/
opaque Config.unmappedKey : Nat → KeyCode

/-- FREE VALUE (log entry 8). The order of the Press events of one ADVANCE under PRESS_ORDER = any: at the draw of
the first number, how the next button is picked when the second number of buttons is left but one (R90, I14). -/
opaque Config.pressPick : Nat → Nat → Nat

/-- OPEN parameters (log entry 10): the length of each named duration, in a unit the spec does not name (R8, R136).
No operation reads one. -/
opaque Config.duration : Duration → Nat

/-- What R8 says of the durations: GUARD_DELAY, T_LATCH_HIGH and T_CLK_HIGH are positive. -/
def Config.DurationsLegal : Prop :=
  0 < Config.duration .guardDelay ∧ 0 < Config.duration .tLatchHigh ∧ 0 < Config.duration .tClkHigh

/-- OPEN parameter LATCH_EDGE (R8, R73; log entry 10). No rule of the model depends on it. -/
opaque Config.latchEdge : Edge

/-- OPEN parameter KC_LEFT_SHIFT (R8, R63; log entry 11). -/
opaque Config.kcLeftShift : Nat

/-- OPEN parameter KC_LEFT_ALT (R8, R63; log entry 11). -/
opaque Config.kcLeftAlt : Nat

/-- OPEN parameter KC_LEFT_CTRL (R8, R63; log entry 11). -/
opaque Config.kcLeftCtrl : Nat

/-- A key-code number outside the printable ASCII codes 0x20 to 0x7E (R63). -/
def Config.OutsidePrintable (n : Nat) : Prop := n < 0x20 ∨ 0x7E < n

/-- What R63 says of the modifiers' numbers: pairwise distinct, and none a printable ASCII code. -/
def Config.ModifierCodesLegal : Prop :=
  Config.kcLeftShift ≠ Config.kcLeftAlt ∧ Config.kcLeftShift ≠ Config.kcLeftCtrl ∧
  Config.kcLeftAlt ≠ Config.kcLeftCtrl ∧ Config.OutsidePrintable Config.kcLeftShift ∧
  Config.OutsidePrintable Config.kcLeftAlt ∧ Config.OutsidePrintable Config.kcLeftCtrl

end Sys2Proof
end

