-- ==== Sys2Proof/Machine/State.lean ====
section
/-! DEFINITION. The state of the block as plain data, its value at reset, and the reasons a step can end without a
next state (spec/10_state.md R20 to R39). The block has no memory (spec/20_memory.md R40). -/

namespace Sys2Proof.Machine

/-- The four output lines (R20). -/
inductive Line where
  | selAH
  | selIN
  | lat
  | clk
  deriving DecidableEq, Repr

/-- An event of the output trace (R64). -/
inductive Event where
  /-- `Press(k)` -/
  | press (k : KeyCode)
  /-- `ReleaseAll` -/
  | releaseAll
  /-- `Delay(d)`: the block waited for the named duration. -/
  | delay (d : Duration)
  deriving DecidableEq, Repr

/-- A call of the keyboard-emulation transport (R120). -/
inductive TransportCall where
  /-- `press(k)` -/
  | press (k : KeyCode)
  /-- `releaseAll()` -/
  | releaseAll
  deriving DecidableEq, Repr

/-- The causes of a stop, in the order of their codes 1 to 10 (R108). -/
inductive StopCause where
  /-- F_READ_INTERLEAVED -/
  | readInterleaved
  /-- F_NOT_LATCHED -/
  | notLatched
  /-- F_SAMPLE_POSITION -/
  | samplePosition
  /-- F_CLOCK_POSITION -/
  | clockPosition
  /-- F_DECODE_INCOMPLETE -/
  | decodeIncomplete
  /-- F_DECODE_ORDER -/
  | decodeOrder
  /-- F_ADVANCE_INCOMPLETE -/
  | advanceIncomplete
  /-- R_ILLEGAL_OPCODE -/
  | illegalOpcode
  /-- R_RESERVED_BITS -/
  | reservedBits
  /-- R_SELECTOR_LOWLOW -/
  | selectorLowLow
  deriving DecidableEq, Repr

/-- The sequencer's mode: the block's own loop (R102), or a supplied list of words (R103). -/
inductive SeqMode where
  | autonomous
  | driven
  deriving DecidableEq, Repr

/-- The values of the parameter PRESS_ORDER (R8, R90). -/
inductive PressOrder where
  | ascending
  | any
  deriving DecidableEq, Repr

/-- The two parameters of R8 that change a behaviour. No operation writes them; they stand in the state so that a
statement about every state holds for every value of them (log entry 7). -/
structure Params where
  /-- RELEASE_ALL_ONLY_IF_ACTIVE (R91). -/
  releaseAllOnlyIfActive : Bool
  /-- PRESS_ORDER (R90). -/
  pressOrder : PressOrder
  deriving DecidableEq, Repr

/-- The environment's draws (R6, R10; log entry 1). A draw takes the next entry of its list; when the list is empty
it is the free value of Config at the draw's number. -/
structure Env where
  /-- the `Env.rowPins` draws still to come -/
  pins : List Byte
  /-- the `Env.serialIn` draws still to come -/
  serial : List Bool
  /-- how many draws were made -/
  count : Nat
  deriving DecidableEq, Repr

/-- The state of the block. The comment of each field gives its name and rule in spec/10_state.md. -/
structure State where
  /-- `SEL_AH` (R20) -/
  selAH : Level
  /-- `SEL_IN` (R20) -/
  selIN : Level
  /-- `LAT` (R20) -/
  lat : Level
  /-- `CLK` (R20) -/
  clk : Level
  /-- `SR` (R23) -/
  sr : Byte
  /-- `SR_VALID` (R23) -/
  srValid : Bool
  /-- `K` (R24) -/
  k : BitVec 3
  /-- `RAW` (R25), bit by bit, so that a bit nothing has written stays apart from its neighbours -/
  raw : Vector Bool 8
  /-- `NREAD` (R26) -/
  nread : BitVec 4
  /-- `LROW` (R27); `none` is the spec's own value -/
  lrow : Option Row
  /-- `SNAP` (R28) -/
  snap : ButtonVec
  /-- `SNAPV` (R29) -/
  snapv : BitVec 3
  /-- `ACTIVE` (R30) -/
  active : ButtonVec
  /-- `ANY` (R31) -/
  any : Bool
  /-- `LAST_KEY` (R32); `none` is the spec's own value -/
  lastKey : Option KeyCode
  /-- `OUT` (R33), oldest event first -/
  out : List Event
  /-- `PRESSED_OUT` (R34) -/
  pressedOut : ButtonVec
  /-- `RELEASED_OUT` (R34) -/
  releasedOut : ButtonVec
  /-- `PHASE` (R35) -/
  phase : Nat
  /-- `STOP` (R36) -/
  stop : BitVec 4
  /-- `STOP_OP` (R36) -/
  stopOp : OpWord
  /-- `STOP_PHASE` (R36) -/
  stopPhase : Nat
  /-- the sequencer's mode (R102, R103) -/
  mode : SeqMode
  /-- `PROG`, the words of a driven run (R103) -/
  prog : List OpWord
  /-- the parameters; the model's own field -/
  params : Params
  /-- the environment's draws; the model's own field -/
  env : Env
  deriving DecidableEq, Repr

/-- Why a step has no next state. None of these is a stop of spec/60_exceptions.md: a stop is a next state. -/
inductive Fault where
  /-- Raised by `step` when STOP is not 0: a stopped block takes no step (R36, R112). Safe. -/
  | stopped
  /-- Raised by `step` when a driven run has PHASE = len(PROG): the run is done, with no further step (R103). Safe. -/
  | runComplete
  /-- Raised by `step` when PHASE indexes no word: above 55 in autonomous mode, above len(PROG) in driven mode. The
  spec gives PHASE no such value (R35). Safe. -/
  | phaseOutOfRange
  /-- Raised by LATCH when the select lines hold (LOW, LOW), where `sel_row` is undefined (R55, I9). No run reaches
  it (R38). Safe. -/
  | selectLinesLowLow
  /-- Raised by DECODE when NREAD = 8 and LROW is none, where the spec gives no row (R85). No run reaches it. Safe. -/
  | latchedRowNone
  deriving DecidableEq, Repr

/-- Why an instruction has no meaning. -/
inductive Refusal where
  /-- Raised by `exec` for an instruction that is not modelled. No arm raises it: every instruction has its meaning.
  Safe. -/
  | notModelled (mnemonic : String)
  deriving DecidableEq, Repr

/-- How one micro-operation or composite ends, before PHASE moves (R10, R111). -/
inductive MicroResult where
  /-- it completed -/
  | done (s : State)
  /-- it stopped; the state holds the stop -/
  | stopped (s : State)
  /-- the spec gives it no meaning in the state it was issued in -/
  | fault (f : Fault)
  deriving DecidableEq, Repr

/-- What the sequencer finds at PHASE. -/
inductive Fetched where
  /-- an operation word -/
  | word (w : OpWord)
  /-- the end of a driven run (R103) -/
  | complete
  /-- no word, and not the end of a run -/
  | outOfRange
  deriving DecidableEq, Repr

/-- The block right after reset (R39, R125). SR and RAW, which the spec leaves without a value, are zero (DESIGN
CHOICE, log entries 2 and 3); no program is loaded and no draw is scripted (DESIGN CHOICE, log entries 1 and 9); the
parameters have the spec's defaults (log entry 7). -/
def State.reset : State where
  selAH := .high
  selIN := .high
  lat := .low
  clk := .low
  sr := 0x00
  srValid := false
  k := 0
  raw := #v[false, false, false, false, false, false, false, false]
  nread := 0
  lrow := none
  snap := 0
  snapv := 0b000
  active := 0
  any := false
  lastKey := none
  out := []
  pressedOut := 0
  releasedOut := 0
  phase := 0
  stop := 0
  stopOp := 0x00
  stopPhase := 0
  mode := .autonomous
  prog := []
  params := { releaseAllOnlyIfActive := false, pressOrder := .ascending }
  env := { pins := [], serial := [], count := 0 }

end Sys2Proof.Machine
end

