-- ==== Sys2Proof/Machine/Flags.lean ====
section
/-! DEFINITION. The block's only flag, ANY, and the codes of its status register STOP (spec/10_state.md R31, R36;
spec/60_exceptions.md R108). -/

namespace Sys2Proof.Machine

/-- ANY after an ADVANCE whose snapshot was `snapshot`: 1 exactly when it was non-empty (R31, R89). -/
def anyAfter (snapshot : ButtonVec) : Bool := decide (snapshot ≠ 0)

/-- The code STOP holds for a cause (R108). -/
def StopCause.code : StopCause → BitVec 4
  | .readInterleaved => 1
  | .notLatched => 2
  | .samplePosition => 3
  | .clockPosition => 4
  | .decodeIncomplete => 5
  | .decodeOrder => 6
  | .advanceIncomplete => 7
  | .illegalOpcode => 8
  | .reservedBits => 9
  | .selectorLowLow => 10

/-- The stop a word that spells no operation enters (R67, R108). -/
def refusalCause : DecodeRefusal → StopCause
  | .illegalOpcode => .illegalOpcode
  | .reservedBits => .reservedBits
  | .selectorLowLow => .selectorLowLow

end Sys2Proof.Machine
end

