-- ==== Sys2Proof/Machine/Ops.lean ====
section
/-! DEFINITION. The named operations every meaning is built from: driving and reading lines, the environment's draws,
emitting events, entering a stop, running micro-operations one after the other, and moving PHASE on
(spec/00_scope.md R10). -/

namespace Sys2Proof.Machine

/-- `drive(line, lv)` (R10, R20): GPIO's `setOutput` (R119). -/
def State.drive (s : State) (l : Line) (v : Level) : State :=
  match l with
  | .selAH => { s with selAH := v }
  | .selIN => { s with selIN := v }
  | .lat => { s with lat := v }
  | .clk => { s with clk := v }

/-- Drives made one after the other, the first of the list first (R47). -/
def State.driveAll (s : State) (ds : List (Line × Level)) : State :=
  ds.foldl (fun s d => s.drive d.1 d.2) s

/-- `pulse(line)`: HIGH and then LOW (R72). -/
def State.pulse (s : State) (l : Line) : State := (s.drive l .high).drive l .low

/-- `readData()`: the level of DATA, GPIO's `readInput` (R22, R119): `level(SR[0])` while SR_VALID = 1, and a FREE
VALUE before the first LATCH (I7, log entry 5). A read has no side effect (R45). -/
def State.dataLevel (s : State) : Level :=
  if s.srValid then Level.ofBit (s.sr.getLsbD 0) else Config.floatingData s.env.count

/-- `draw Env.rowPins(r)`: the value of the next row draw (R10, R58; log entry 1). -/
def Env.rowPins (e : Env) (r : Row) : Byte := e.pins.headD (Config.rowPins e.count r)

/-- The environment after a row draw. -/
def Env.afterRowPins (e : Env) : Env := { e with pins := e.pins.tail, count := e.count + 1 }

/-- `draw Env.serialIn()`: the value of the next serial-input draw (R10, R74; log entry 1). -/
def Env.serialIn (e : Env) : Bool := e.serial.headD (Config.serialIn e.count)

/-- The environment after a serial-input draw. -/
def Env.afterSerialIn (e : Env) : Env := { e with serial := e.serial.tail, count := e.count + 1 }

/-- `emit ev` for each event of a list, in its order (R10, R33). -/
def State.emit (s : State) (evs : List Event) : State := { s with out := s.out ++ evs }

/-- The stop entry (R111): the cause, the stopping word and PHASE are recorded, and nothing else changes. -/
def State.stopEntry (s : State) (c : StopCause) (op : OpWord) : State :=
  { s with stop := c.code, stopOp := op, stopPhase := s.phase }

/-- Run the next micro-operation only if this one completed (R10, R111). -/
def MicroResult.andThen (m : MicroResult) (next : State → MicroResult) : MicroResult :=
  match m with
  | .done s => next s
  | .stopped s => .stopped s
  | .fault f => .fault f

/-- A micro-operation `n` times, as long as it completes. -/
def repeatMicro : Nat → (State → MicroResult) → State → MicroResult
  | 0, _, s => .done s
  | n + 1, m, s => (m s).andThen (repeatMicro n m)

/-- PHASE after a completed operation: one more, wrapping from 55 to 0 in autonomous mode (R35, R102, R103). -/
def State.nextPhase (s : State) : Nat :=
  match s.mode with
  | .autonomous => (s.phase + 1) % 56
  | .driven => s.phase + 1

/-- Move PHASE on (R35). -/
def State.advancePhase (s : State) : State := { s with phase := s.nextPhase }

/-- The outcome of an operation: PHASE moves on if it completed, and stays if it stopped (R35, R111). -/
def MicroResult.finish (m : MicroResult) : Host.Outcome State Fault Refusal :=
  match m with
  | .done s => .next s.advancePhase
  | .stopped s => .next s
  | .fault f => .fault f

/-- The transport call an event makes: none for a Delay (R64, R120). -/
def Event.transportCall : Event → Option TransportCall
  | .press k => some (.press k)
  | .releaseAll => some .releaseAll
  | .delay _ => none

/-- What the transport is sent, in the order of OUT (R120). -/
def transportCalls (out : List Event) : List TransportCall := out.filterMap Event.transportCall

end Sys2Proof.Machine
end

