-- ==== Sys2Proof/Machine/Tables.lean ====
section
/-! DEFINITION. The four read-only tables of the block: the used-position masks, the bit-position table, the key-code
map and the microprogram (spec/20_memory.md R41). -/

namespace Sys2Proof.Machine

/-- `ri(r)` (R11). -/
def rowIndex : Row → Nat
  | .AH => 0
  | .IN => 1
  | .CMD => 2

/-- `USED(r)` (R60). -/
def used : Row → Byte
  | .AH => 0xFF
  | .IN => 0xFC
  | .CMD => 0xFE

/-- `USED24 = {USED(CMD), USED(IN), USED(AH)}` (R60). -/
def used24 : ButtonVec := used .CMD ++ (used .IN ++ used .AH)

/-- `POS_TABLE(r, p)` (R83); `none` is "(unused)". -/
def posTable : Row → Nat → Option LogicalButton
  | .AH, 0 => some .H
  | .AH, 1 => some .G
  | .AH, 2 => some .F
  | .AH, 3 => some .E
  | .AH, 4 => some .D
  | .AH, 5 => some .C
  | .AH, 6 => some .B
  | .AH, 7 => some .A
  | .IN, 2 => some .N
  | .IN, 3 => some .M
  | .IN, 4 => some .L
  | .IN, 5 => some .K
  | .IN, 6 => some .J
  | .IN, 7 => some .I
  | .CMD, 1 => some .RON
  | .CMD, 2 => some .RIICHI
  | .CMD, 3 => some .CHI
  | .CMD, 4 => some .PON
  | .CMD, 5 => some .KAN
  | .CMD, 6 => some .ST
  | .CMD, 7 => some .SEL
  | _, _ => none

/-- The button index of position `p` of row `r` (R59). -/
def buttonIndex (r : Row) (p : Nat) : Nat := 8 * rowIndex r + p

/-- The button of index `b`: the table's entry at row `b / 8`, position `b % 8` (R59); `none` at an unused slot. -/
def buttonAt (b : Nat) : Option LogicalButton :=
  match b / 8 with
  | 0 => posTable .AH (b % 8)
  | 1 => posTable .IN (b % 8)
  | 2 => posTable .CMD (b % 8)
  | _ => none

/-- The key code of a button (R62). -/
def keyOf : LogicalButton → KeyCode
  | .H => .char 'h'
  | .G => .char 'g'
  | .F => .char 'f'
  | .E => .char 'e'
  | .D => .char 'd'
  | .C => .char 'c'
  | .B => .char 'b'
  | .A => .char 'a'
  | .N => .char 'n'
  | .M => .char 'm'
  | .L => .char 'l'
  | .K => .char 'k'
  | .J => .char 'j'
  | .I => .char 'i'
  | .RON => .char 'z'
  | .RIICHI => .leftShift
  | .CHI => .char ' '
  | .PON => .leftAlt
  | .KAN => .leftCtrl
  | .ST => .char '1'
  | .SEL => .char '5'

/-- `KEYMAP(b)` (R62); a FREE VALUE at the unused slots (I10, log entry 6). -/
def keymap (b : Nat) : KeyCode :=
  match buttonAt b with
  | some x => keyOf x
  | none => Config.unmappedKey b

/-- The number of a key code (R63): a printable character's ASCII value, or the modifier's OPEN parameter. -/
def keyNumber : KeyCode → Nat
  | .char c => c.toNat
  | .leftShift => Config.kcLeftShift
  | .leftAlt => Config.kcLeftAlt
  | .leftCtrl => Config.kcLeftCtrl

/-- The microprogram of one row: 18 words (R101). -/
def rowProgram (r : Row) : List OpWord :=
  [encode (.select r), encode .latch, encode .sample] ++
    (List.replicate 7 [encode .clock, encode .sample]).flatten ++ [encode .decode]

/-- `MP`: the 56 words of one cycle (R101). -/
def microprogram : List OpWord :=
  rowProgram .AH ++ (rowProgram .IN ++ (rowProgram .CMD ++ [encode .advance, encode .guard]))

end Sys2Proof.Machine
end

