-- ==== Sys2Proof/Machine/Operands.lean ====
section
/-! DEFINITION. The operands of the operations: a row as drives of the select lines, the read position and the bits of
RAW, a row's slice of the snapshot and its place in the cycle's order, and the order of new buttons. -/

namespace Sys2Proof.Machine

/-- A row read is in progress: `1 <= NREAD <= 7` (R26). -/
def State.readInProgress (s : State) : Bool := decide (1 ≤ s.nread.toNat ∧ s.nread.toNat ≤ 7)

/-- The drives of `SELECT r` in their order: each line going HIGH before each line going LOW (R75, R82). -/
def selectDrives (r : Row) : List (Line × Level) :=
  (if r.levels.1 = .high then [(Line.selAH, Level.high)] else []) ++
  ((if r.levels.2 = .high then [(Line.selIN, Level.high)] else []) ++
  ((if r.levels.1 = .low then [(Line.selAH, Level.low)] else []) ++
  (if r.levels.2 = .low then [(Line.selIN, Level.low)] else [])))

/-- The eight bits of a byte, bit 0 first. -/
def bitsOfByte (b : Byte) : Vector Bool 8 :=
  #v[b.getLsbD 0, b.getLsbD 1, b.getLsbD 2, b.getLsbD 3, b.getLsbD 4, b.getLsbD 5, b.getLsbD 6, b.getLsbD 7]

/-- RAW as a number: the sum of `bit(read_i) * 2^i` (R46). -/
def rawByte (v : Vector Bool 8) : Byte :=
  BitVec.ofNat 8 (v[0].toNat + 2 * v[1].toNat + 4 * v[2].toNat + 8 * v[3].toNat +
    16 * v[4].toNat + 32 * v[5].toNat + 64 * v[6].toNat + 128 * v[7].toNat)

/-- `SNAPV` when exactly the rows before `r` are decoded: the `prefix(r)` of R85. -/
def decodedBefore : Row → BitVec 3
  | .AH => 0b000
  | .IN => 0b001
  | .CMD => 0b011

/-- `SNAP[8*ri(r)+7 : 8*ri(r)] <- b` (R85). -/
def writeSlice (v : ButtonVec) (r : Row) (b : Byte) : ButtonVec :=
  (v &&& ~~~(0x0000FF#24 <<< (8 * rowIndex r))) ||| (b.zeroExtend 24 <<< (8 * rowIndex r))

/-- The buttons of a vector in ascending index (R89, R90). -/
def buttonsOf (v : ButtonVec) : List Nat := (List.range 24).filter (fun b => v.getLsbD b)

/-- A list of `n` entries in an order a pick sequence decides: of the entries left, the one that `pick` names comes
next. Every order is the order of some pick sequence (R90). -/
def permuteBy (pick : Nat → Nat) : Nat → List Nat → List Nat
  | 0, _ => []
  | n + 1, l =>
    match l[pick n % l.length]? with
    | none => []
    | some b => b :: permuteBy pick n (l.erase b)

/-- The new buttons in the order their Press events are emitted: PRESS_ORDER (R90; log entry 8). -/
def pressSequence (o : PressOrder) (count : Nat) (v : ButtonVec) : List Nat :=
  match o with
  | .ascending => buttonsOf v
  | .any => permuteBy (Config.pressPick count) (buttonsOf v).length (buttonsOf v)

end Sys2Proof.Machine
end

