-- ==== Sys2Proof/Machine/Debounce.lean ====
section
/-! DEFINITION. The edge and debounce state machine: ADVANCE and GUARD (spec/42_debounce_fsm.md). -/

namespace Sys2Proof.Machine

/-- `NEW`: the buttons of the snapshot that are not active (R89). -/
def State.newButtons (s : State) : ButtonVec := s.snap &&& ~~~s.active

/-- The key codes the presses of this ADVANCE carry, in the order they are emitted (R89, R90). -/
def State.newKeys (s : State) : List KeyCode :=
  (pressSequence s.params.pressOrder s.env.count s.newButtons).map keymap

/-- The environment after the presses' order is settled: PRESS_ORDER = any takes one draw (R90, log entry 8). -/
def Env.afterPressOrder (e : Env) (o : PressOrder) : Env :=
  match o with
  | .ascending => e
  | .any => { e with count := e.count + 1 }

/-- A transition on a non-empty snapshot (R89): one Press per new button, LAST_KEY the last of them. -/
def State.pressNew (s : State) : State :=
  { s with
    out := s.out ++ s.newKeys.map Event.press
    lastKey := s.newKeys.getLast?.or s.lastKey
    active := s.active ||| s.snap
    any := anyAfter s.snap
    pressedOut := s.newButtons
    releasedOut := 0
    env := s.env.afterPressOrder s.params.pressOrder }

/-- The events of a transition on an empty snapshot: `ReleaseAll`, unless RELEASE_ALL_ONLY_IF_ACTIVE holds it back
(R89, R91). -/
def State.releaseEvents (s : State) : List Event :=
  if s.params.releaseAllOnlyIfActive = false ∨ s.active ≠ 0 then [Event.releaseAll] else []

/-- A transition on an empty snapshot (R89). -/
def State.releaseActive (s : State) : State :=
  { s with
    out := s.out ++ s.releaseEvents
    lastKey := none
    active := 0
    any := anyAfter s.snap
    pressedOut := 0
    releasedOut := s.active }

/-- The snapshot is discarded (R89). -/
def State.dropSnapshot (s : State) : State := { s with snap := 0, snapv := 0b000 }

/-- The transition of the press-state machine (R89). -/
def State.transition (s : State) : State :=
  (if s.snap ≠ 0 then s.pressNew else s.releaseActive).dropSnapshot

/-- `ADVANCE` (R89). -/
def microAdvance (s : State) : MicroResult :=
  if s.snapv ≠ 0b111 then .stopped (s.stopEntry .advanceIncomplete (encode .advance))
  else .done s.transition

/-- `GUARD` (R93): the wait shows as a Delay event. -/
def microGuard (s : State) : MicroResult :=
  .done (s.emit (if s.any then [Event.delay .guardDelay] else []))

/-- The meaning of `ADVANCE` (R89). -/
def execAdvance (s : State) : Host.Outcome State Fault Refusal := (microAdvance s).finish

/-- The meaning of `GUARD` (R93). -/
def execGuard (s : State) : Host.Outcome State Fault Refusal := (microGuard s).finish

end Sys2Proof.Machine
end

