-- ==== Sys2Proof/Machine/Decoder.lean ====
section
/-! DEFINITION. The logical button decoder: the decode function and DECODE (spec/41_decoder.md). -/

namespace Sys2Proof.Machine

/-- `pressed8(r, bits)`: the used positions whose bit is 0 (R84). -/
def pressed8 (r : Row) (bits : Byte) : Byte := ~~~bits &&& used r

/-- `decode_row(r, bits)`: the same as a button vector (R84). -/
def decodeRow (r : Row) (bits : Byte) : ButtonVec := (pressed8 r bits).zeroExtend 24 <<< (8 * rowIndex r)

/-- Row `r`'s slice of SNAP and its SNAPV bit are written from RAW (R85). -/
def State.recordSlice (s : State) (r : Row) : State :=
  { s with
    snap := writeSlice s.snap r (pressed8 r (rawByte s.raw))
    snapv := s.snapv ||| (0b001#3 <<< rowIndex r) }

/-- `DECODE` (R85). LROW = none with NREAD = 8, which no run reaches, names no row (log entry 13). -/
def microDecode (s : State) : MicroResult :=
  if s.nread ≠ 8 then .stopped (s.stopEntry .decodeIncomplete (encode .decode))
  else
    match s.lrow with
    | none => .fault .latchedRowNone
    | some r =>
      if s.snapv ≠ decodedBefore r then .stopped (s.stopEntry .decodeOrder (encode .decode))
      else .done (s.recordSlice r)

/-- The meaning of `DECODE` (R85). -/
def execDecode (s : State) : Host.Outcome State Fault Refusal := (microDecode s).finish

end Sys2Proof.Machine
end

