-- ==== Sys2Proof/Machine/RowMux.lean ====
section
/-! DEFINITION. Row select and shift-register read: SELECT, LATCH, SAMPLE, CLOCK and READROW
(spec/40_row_mux.md). -/

namespace Sys2Proof.Machine

/-- `SELECT r` (R75). -/
def microSelect (r : Row) (s : State) : MicroResult :=
  if s.readInProgress then .stopped (s.stopEntry .readInterleaved (encode (.select r)))
  else .done (s.driveAll (selectDrives r))

/-- What a capture of row `r` writes, after the latch pulse (R73, R76). RAW becomes unwritten: a FREE VALUE (log
entry 4). -/
def State.capture (s : State) (r : Row) : State :=
  { s with
    sr := s.env.rowPins r
    srValid := true
    lrow := some r
    k := 0
    nread := 0
    raw := bitsOfByte (Config.unwrittenRaw s.env.count)
    env := s.env.afterRowPins }

/-- `LATCH` (R76). Select lines at (LOW, LOW), which no run reaches, select no row (R55, I9; log entry 12). -/
def microLatch (s : State) : MicroResult :=
  if s.readInProgress then .stopped (s.stopEntry .readInterleaved (encode .latch))
  else
    match selRow s.selAH s.selIN with
    | none => .fault .selectLinesLowLow
    | some r => .done ((s.pulse .lat).capture r)

/-- `RAW[NREAD] <- bit(readData()); NREAD <- NREAD + 1` (R77). -/
def State.readBit (s : State) : State :=
  { s with raw := s.raw.setIfInBounds s.nread.toNat s.dataLevel.bit, nread := s.nread + 1 }

/-- `SAMPLE` (R77). -/
def microSample (s : State) : MicroResult :=
  if s.srValid = false then .stopped (s.stopEntry .notLatched (encode .sample))
  else if s.nread.toNat ≠ s.k.toNat then .stopped (s.stopEntry .samplePosition (encode .sample))
  else .done s.readBit

/-- `SR <- {draw Env.serialIn(), SR[7:1]}; K <- K + 1` (R74, R78). -/
def State.shift (s : State) : State :=
  { s with
    sr := BitVec.ofBool s.env.serialIn ++ s.sr.extractLsb' 1 7
    k := s.k + 1
    env := s.env.afterSerialIn }

/-- `CLOCK` (R78). -/
def microClock (s : State) : MicroResult :=
  if s.srValid = false then .stopped (s.stopEntry .notLatched (encode .clock))
  else if s.k = 7 ∨ s.nread.toNat ≠ s.k.toNat + 1 then .stopped (s.stopEntry .clockPosition (encode .clock))
  else .done (s.pulse .clk).shift

/-- `CLOCK` and then `SAMPLE`: one of the positions 1 to 7 (R79). -/
def microClockSample (s : State) : MicroResult := (microClock s).andThen microSample

/-- `READROW r`: the 17 micro-operations of its expansion (R79). -/
def microReadRow (r : Row) (s : State) : MicroResult :=
  (((microSelect r s).andThen microLatch).andThen microSample).andThen (repeatMicro 7 microClockSample)

/-- The meaning of `SELECT r` (R75). -/
def execSelect (r : Row) (s : State) : Host.Outcome State Fault Refusal := (microSelect r s).finish

/-- The meaning of `LATCH` (R76). -/
def execLatch (s : State) : Host.Outcome State Fault Refusal := (microLatch s).finish

/-- The meaning of `SAMPLE` (R77). -/
def execSample (s : State) : Host.Outcome State Fault Refusal := (microSample s).finish

/-- The meaning of `CLOCK` (R78). -/
def execClock (s : State) : Host.Outcome State Fault Refusal := (microClock s).finish

/-- The meaning of `READROW r` (R79). -/
def execReadRow (r : Row) (s : State) : Host.Outcome State Fault Refusal := (microReadRow r s).finish

end Sys2Proof.Machine
end

