-- ==== Sys2Proof/Machine/Poll.lean ====
section
/-! DEFINITION. One polling cycle as a single operation: POLL (spec/43_poll_cycle.md R99, R100). -/

namespace Sys2Proof.Machine

/-- `READROW r` and then `DECODE` (R99). -/
def microRowCycle (r : Row) (s : State) : MicroResult := (microReadRow r s).andThen microDecode

/-- `POLL` (R99). -/
def microPoll (s : State) : MicroResult :=
  ((((microRowCycle .AH s).andThen (microRowCycle .IN)).andThen (microRowCycle .CMD)).andThen microAdvance).andThen
    microGuard

/-- The meaning of `POLL` (R99). -/
def execPoll (s : State) : Host.Outcome State Fault Refusal := (microPoll s).finish

end Sys2Proof.Machine
end

