-- ==== Sys2Proof/Machine/Dispatch.lean ====
section
/-! DEFINITION. One arm per operation. -/

namespace Sys2Proof.Machine

/-- What an operation does in a state, PHASE included. Whether the block still runs is for `step` to ask. -/
def exec (i : Instr) (s : State) : Host.Outcome State Fault Refusal :=
  match i with
  | .select r => Sys2Proof.Machine.execSelect r s
  | .latch => Sys2Proof.Machine.execLatch s
  | .sample => Sys2Proof.Machine.execSample s
  | .clock => Sys2Proof.Machine.execClock s
  | .readRow r => Sys2Proof.Machine.execReadRow r s
  | .decode => Sys2Proof.Machine.execDecode s
  | .advance => Sys2Proof.Machine.execAdvance s
  | .guard => Sys2Proof.Machine.execGuard s
  | .poll => Sys2Proof.Machine.execPoll s

end Sys2Proof.Machine
end

