-- ==== Sys2Proof/Machine/Sequencer.lean ====
section
/-! DEFINITION. The sequencer: where the next operation word comes from (spec/43_poll_cycle.md R101 to R103). -/

namespace Sys2Proof.Machine

/-- The word PHASE indexes: `MP[PHASE]` in autonomous mode (R102), `PROG[PHASE]` in driven mode, whose run is done at
`PHASE = len(PROG)` (R103). -/
def State.fetch (s : State) : Fetched :=
  match s.mode with
  | .autonomous =>
    match microprogram[s.phase]? with
    | some w => .word w
    | none => .outOfRange
  | .driven =>
    if s.phase = s.prog.length then .complete
    else
      match s.prog[s.phase]? with
      | some w => .word w
      | none => .outOfRange

/-- The stop of a word that spells no operation: the word has no other effect (R67, R111). -/
def State.refuseWord (s : State) (c : DecodeRefusal) (w : OpWord) : State := s.stopEntry (refusalCause c) w

/-- The state a driven run of `prog` starts from: reset, with `PHASE = 0` indexing the program (R125), under the
given parameters and environment draws. -/
def drivenReset (prog : List OpWord) (params : Params) (env : Env) : State :=
  { State.reset with mode := .driven, prog := prog, params := params, env := env }

end Sys2Proof.Machine
end

