-- ==== Sys2Proof/Machine/Step.lean ====
section
/-! DEFINITION. One step of the sequencer (spec/43_poll_cycle.md R102, R103). -/

namespace Sys2Proof.Machine

/-- One step: nothing while STOP is not 0 (R36); otherwise fetch the word at PHASE, decode it, and run it or enter the
stop of its refusal. -/
def step (s : State) : Host.Outcome State Fault Refusal :=
  if s.stop ≠ 0 then .fault .stopped
  else
    match s.fetch with
    | .complete => .fault .runComplete
    | .outOfRange => .fault .phaseOutOfRange
    | .word w =>
      match decodeOp w with
      | .ok i => exec i s
      | .error c => .next (s.refuseWord c w)

/-- `s` with one word where the next step fetches: in place at PHASE of a driven run, or else as a driven run of that
one word, since no operation writes the microprogram (R50). STOP is cleared, so that the step is taken. This is a host
device and no operation of the block (log entry 9). -/
def State.withFetchWord (s : State) (nbits w : Nat) : State :=
  let word := BitVec.ofNat 8 (w % 2 ^ nbits)
  if s.mode = .driven ∧ s.phase < s.prog.length then { s with stop := 0, prog := s.prog.set s.phase word }
  else { s with stop := 0, mode := .driven, prog := [word], phase := 0 }

end Sys2Proof.Machine
end

