-- ==== Sys2Proof/Machine/Assembler.lean ====
section
/-! DEFINITION. The assembler: one line of text to one operation word (spec/30_encoding.md R70). -/

namespace Sys2Proof.Machine

/-- A blank between two words of a line: a space or a tab (DESIGN CHOICE, log entry 14). -/
def isBlank (c : Char) : Bool := c == ' ' || c == '\t'

/-- The line without its comment: what stands before the first `;` (R70). -/
def beforeComment : List Char → List Char
  | [] => []
  | c :: cs => if c == ';' then [] else c :: beforeComment cs

/-- The words of a line, where `word` is the word being read. -/
def wordsFrom (word : List Char) : List Char → List (List Char)
  | [] => if word.isEmpty then [] else [word]
  | c :: cs =>
    if isBlank c then
      if word.isEmpty then wordsFrom [] cs else word :: wordsFrom [] cs
    else wordsFrom (word ++ [c]) cs

/-- The row a row name spells (R70). -/
def rowOfName (w : List Char) : Option Row :=
  if w = ['A', 'H'] then some .AH
  else if w = ['I', 'N'] then some .IN
  else if w = ['C', 'M', 'D'] then some .CMD
  else none

/-- The name of a row (R11). -/
def nameOfRow : Row → List Char
  | .AH => ['A', 'H']
  | .IN => ['I', 'N']
  | .CMD => ['C', 'M', 'D']

/-- The mnemonic of an operation (R66). -/
def mnemonic : Instr → List Char
  | .select _ => ['S', 'E', 'L', 'E', 'C', 'T']
  | .latch => ['L', 'A', 'T', 'C', 'H']
  | .sample => ['S', 'A', 'M', 'P', 'L', 'E']
  | .clock => ['C', 'L', 'O', 'C', 'K']
  | .readRow _ => ['R', 'E', 'A', 'D', 'R', 'O', 'W']
  | .decode => ['D', 'E', 'C', 'O', 'D', 'E']
  | .advance => ['A', 'D', 'V', 'A', 'N', 'C', 'E']
  | .guard => ['G', 'U', 'A', 'R', 'D']
  | .poll => ['P', 'O', 'L', 'L']

/-- The operation a mnemonic without a row spells. -/
def plainOfMnemonic (w : List Char) : Option Instr :=
  if w = mnemonic .latch then some .latch
  else if w = mnemonic .sample then some .sample
  else if w = mnemonic .clock then some .clock
  else if w = mnemonic .decode then some .decode
  else if w = mnemonic .advance then some .advance
  else if w = mnemonic .guard then some .guard
  else if w = mnemonic .poll then some .poll
  else none

/-- The operation of a mnemonic and a row name. -/
def rowOp (w : List Char) (r : Row) : Option Instr :=
  if w = mnemonic (.select r) then some (.select r)
  else if w = mnemonic (.readRow r) then some (.readRow r)
  else none

/-- What a line of the grammar spells (R70): an operation, nothing (an empty or comment-only line), or no line of the
grammar at all. -/
def parseLine (line : List Char) : Option (Option Instr) :=
  match wordsFrom [] (beforeComment line) with
  | [] => some none
  | [w] => (plainOfMnemonic w).map some
  | [w, r] => ((rowOfName r).bind (rowOp w)).map some
  | _ => none

/-- The words a line assembles to: one word, or none for a line without an operation (R66, R70). -/
def assembleLine (line : List Char) : Option (List OpWord) :=
  (parseLine line).map fun op =>
    match op with
    | some i => [encode i]
    | none => []

/-- The words of a program, its lines in order; `none` if some line is not of the grammar. -/
def assemble : List (List Char) → Option (List OpWord)
  | [] => some []
  | l :: ls =>
    match assembleLine l, assemble ls with
    | some ws, some rest => some (ws ++ rest)
    | _, _ => none

/-- The line that spells an operation. -/
def lineOf : Instr → List Char
  | .select r => mnemonic (.select r) ++ (' ' :: nameOfRow r)
  | .readRow r => mnemonic (.readRow r) ++ (' ' :: nameOfRow r)
  | .latch => mnemonic .latch
  | .sample => mnemonic .sample
  | .clock => mnemonic .clock
  | .decode => mnemonic .decode
  | .advance => mnemonic .advance
  | .guard => mnemonic .guard
  | .poll => mnemonic .poll

end Sys2Proof.Machine
end

