-- ==== Sys2Proof/Safety.lean ====
section
/-! DEFINITION. The terms claims are stated in: how a run ends, the invariants of spec/10_state.md R38, where the
autonomous cycle stands at each PHASE, and sequences of operations. -/

namespace Sys2Proof.Machine

/-- The block is running: STOP = 0 (R36). -/
def State.running (s : State) : Bool := decide (s.stop = 0)

/-- The good end of a driven run: PHASE = len(PROG) with STOP = 0. A stopped run is never one (R103). -/
def State.complete (s : State) : Bool :=
  decide (s.mode = .driven ∧ s.phase = s.prog.length ∧ s.stop = 0)

/-- No run of this state is bad: it has not stopped (R103, R109). -/
def SafeState (s : State) : Prop := s.stop = 0

/-- R38 item 1: the select lines never hold (LOW, LOW). -/
def LinesLegal (s : State) : Prop := ¬(s.selAH = .low ∧ s.selIN = .low)

/-- R38 item 2: LAT and CLK are LOW between operations. -/
def PulsesLow (s : State) : Prop := s.lat = .low ∧ s.clk = .low

/-- R38 item 3, and that a latched register has a row (R85: "not none: NREAD == 8 implies a LATCH"). -/
def CountersLegal (s : State) : Prop :=
  s.k.toNat ≤ 7 ∧ s.nread.toNat ≤ 8 ∧
  (s.nread.toNat = s.k.toNat ∨ s.nread.toNat = s.k.toNat + 1) ∧
  (s.srValid = false → s.nread = 0 ∧ s.k = 0 ∧ s.lrow = none) ∧
  (s.srValid = true → s.lrow ≠ none)

/-- `SNAP[8*ri(r)+7 : 8*ri(r)]`. -/
def sliceOf (v : ButtonVec) (r : Row) : Byte := v.extractLsb' (8 * rowIndex r) 8

/-- R38 item 4: no unused position in SNAP or ACTIVE, and an undecoded row's slice of SNAP is empty. -/
def VectorsLegal (s : State) : Prop :=
  s.snap &&& ~~~used24 = 0 ∧ s.active &&& ~~~used24 = 0 ∧
  ∀ r : Row, s.snapv.getLsbD (rowIndex r) = false → sliceOf s.snap r = 0

/-- R38 item 5. -/
def SnapvLegal (s : State) : Prop :=
  s.snapv = 0b000 ∨ s.snapv = 0b001 ∨ s.snapv = 0b011 ∨ s.snapv = 0b111

/-- R38 item 6: ACTIVE, ANY and LAST_KEY agree on whether something is active. -/
def PressAgrees (s : State) : Prop :=
  (s.active ≠ 0 ↔ s.any = true) ∧ (s.active ≠ 0 ↔ s.lastKey ≠ none)

/-- R38 item 7. -/
def OutputsDisjoint (s : State) : Prop := s.pressedOut &&& s.releasedOut = 0

/-- R35: 0..55 in autonomous mode, 0..len(PROG) in driven mode. -/
def PhaseLegal (s : State) : Prop :=
  (s.mode = .autonomous → s.phase < 56) ∧ (s.mode = .driven → s.phase ≤ s.prog.length)

/-- R108: the codes 11 to 15 never stand in STOP. -/
def StopLegal (s : State) : Prop := s.stop.toNat ≤ 10

/-- The invariants of R38, with the ranges of PHASE and STOP. -/
def MachineInv (s : State) : Prop :=
  LinesLegal s ∧ PulsesLow s ∧ CountersLegal s ∧ VectorsLegal s ∧ SnapvLegal s ∧ PressAgrees s ∧
  OutputsDisjoint s ∧ PhaseLegal s ∧ StopLegal s

/-- The row the microprogram reads in the phases 18n to 18n + 17 (R101). -/
def rowOfBlock : Nat → Row
  | 0 => .AH
  | 1 => .IN
  | _ => .CMD

/-- What holds at offset `o` of the microprogram's block of row `r`, before the word there runs (R101). -/
def AtOffset (s : State) (r : Row) : Nat → Prop
  | 0 => s.nread = 0 ∨ s.nread = 8
  | 1 => (s.nread = 0 ∨ s.nread = 8) ∧ (s.selAH, s.selIN) = r.levels
  | o + 2 => s.srValid = true ∧ s.lrow = some r ∧ s.k.toNat = o / 2 ∧ s.nread.toNat = (o + 1) / 2

/-- Where the block stands in its own loop: running, in autonomous mode, with the read, the latched row and the
decoded rows as PHASE says (R101, R102). -/
def InCycle (s : State) : Prop :=
  s.mode = .autonomous ∧ s.stop = 0 ∧ s.phase < 56 ∧
  (s.phase < 54 →
    s.snapv = decodedBefore (rowOfBlock (s.phase / 18)) ∧
    AtOffset s (rowOfBlock (s.phase / 18)) (s.phase % 18)) ∧
  (s.phase = 54 → s.snapv = 0b111 ∧ s.nread = 8) ∧
  (s.phase = 55 → s.snapv = 0b000 ∧ s.nread = 8)

/-- A state from which a cycle can start: no row read in progress and no row decoded (R99). -/
def CycleStart (s : State) : Prop :=
  (s.nread = 0 ∨ s.nread = 8) ∧ s.snapv = 0b000

/-- Operations one after the other, as long as the block runs (R103). -/
def runOps : List Instr → State → Host.Outcome State Fault Refusal
  | [], s => .next s
  | i :: is, s =>
    match exec i s with
    | .next t => if t.stop = 0 then runOps is t else .next t
    | .fault f => .fault f
    | .refused r => .refused r

/-- The micro-operations of `READROW r` (R79). -/
def readRowExpansion (r : Row) : List Instr :=
  [.select r, .latch, .sample] ++ (List.replicate 7 [Instr.clock, Instr.sample]).flatten

/-- The operations of `POLL` (R99). -/
def pollExpansion : List Instr :=
  [.readRow .AH, .decode, .readRow .IN, .decode, .readRow .CMD, .decode, .advance, .guard]

/-- The environment after one row read: one row draw and seven serial draws (R76, R78, R79). -/
def Env.afterRow (e : Env) : Env :=
  { pins := e.pins.tail, serial := e.serial.drop 7, count := e.count + 8 }

/-- The snapshot one cycle builds from the draws the environment has ready (R87, R106). -/
def cycleSnapshot (e : Env) : ButtonVec :=
  decodeRow .AH (e.rowPins .AH) ||| decodeRow .IN (e.afterRow.rowPins .IN) |||
    decodeRow .CMD (e.afterRow.afterRow.rowPins .CMD)

/-- A cycle's snapshot is complete and holds `v`. -/
def State.withSnapshot (s : State) (v : ButtonVec) : State := { s with snap := v, snapv := 0b111 }

/-- One ADVANCE for each snapshot of a list. -/
def advanceAll : List ButtonVec → State → Host.Outcome State Fault Refusal
  | [], s => .next s
  | v :: vs, s =>
    match exec .advance (s.withSnapshot v) with
    | .next t => advanceAll vs t
    | .fault f => .fault f
    | .refused r => .refused r

/-- One ADVANCE and the cycle's GUARD for each snapshot of a list. -/
def advanceGuardAll : List ButtonVec → State → Host.Outcome State Fault Refusal
  | [], s => .next s
  | v :: vs, s =>
    match runOps [.advance, .guard] (s.withSnapshot v) with
    | .next t => advanceGuardAll vs t
    | .fault f => .fault f
    | .refused r => .refused r

/-- The buttons of a vector in ascending index, said without the model's own list (R89). -/
def ascendingButtons (v : ButtonVec) : List Nat :=
  (List.finRange 24).filterMap fun b => if v[b] then some b.val else none

/-- The four lines are as before. -/
def LinesKept (s t : State) : Prop := t.selAH = s.selAH ∧ t.selIN = s.selIN ∧ t.lat = s.lat ∧ t.clk = s.clk

/-- The shift register and the reader's accumulator are as before. -/
def ReaderKept (s t : State) : Prop :=
  t.sr = s.sr ∧ t.srValid = s.srValid ∧ t.k = s.k ∧ t.raw = s.raw ∧ t.nread = s.nread ∧ t.lrow = s.lrow

/-- The snapshot is as before. -/
def SnapshotKept (s t : State) : Prop := t.snap = s.snap ∧ t.snapv = s.snapv

/-- The press state and its two results are as before. -/
def PressStateKept (s t : State) : Prop :=
  t.active = s.active ∧ t.any = s.any ∧ t.lastKey = s.lastKey ∧ t.pressedOut = s.pressedOut ∧
  t.releasedOut = s.releasedOut

/-- The sequencer's mode and program and the parameters are as before. -/
def ConfigurationKept (s t : State) : Prop := t.mode = s.mode ∧ t.prog = s.prog ∧ t.params = s.params

/-- STOP, STOP_OP and STOP_PHASE are as before, or the operation stopped at this PHASE (R111). -/
def StopKeptUnlessStopped (s t : State) : Prop :=
  (t.stop = s.stop ∧ t.stopOp = s.stopOp ∧ t.stopPhase = s.stopPhase) ∨
  (t.stop ≠ 0 ∧ t.stopPhase = s.phase ∧ t.phase = s.phase)

end Sys2Proof.Machine
end

