-- ==== Sys2Proof/Certificates/Slice0/Obligations.lean ====
section
/-! DEFINITION. The statements about the machine, one per obligation of OBLIGATIONS.json. Rule numbers are those of
spec/. In each, "a read is in progress" is `1 <= NREAD <= 7` (R26), and `s.nextPhase` is PHASE moved on by one, which
`Obligations.PhaseMovesByOne` says in full. The block has no memory (R40), so no frame speaks of one. -/

open Sys2Proof Sys2Proof.Machine

/-! ### Encoding -/

/-- Decoding and encoding agree in both directions: a word decodes to an operation exactly when it is that operation's
encoding (spec/30_encoding.md sections 5 and 6). -/
def Obligations.DecodeEncodeAgree : Prop :=
  ∀ (w : OpWord) (i : Instr), decodeOp w = .ok i ↔ encode i = w

/-- R67: `decode_op` over all 256 words, each check in its order, and the operation of each legal word; and a refused
word stops the block with its refusal's code, 8 to 10 (R108), and has no other effect. -/
def Obligations.DecoderChecksInOrder : Prop :=
  (∀ w : OpWord, w.toNat / 16 = 0 ∨ 10 ≤ w.toNat / 16 → decodeOp w = .error .illegalOpcode) ∧
  (∀ w : OpWord, w.toNat / 16 = 1 ∨ w.toNat / 16 = 5 → w.toNat % 16 / 4 ≠ 0 → decodeOp w = .error .reservedBits) ∧
  (∀ w : OpWord, w.toNat / 16 = 1 ∨ w.toNat / 16 = 5 → w.toNat % 16 = 0 → decodeOp w = .error .selectorLowLow) ∧
  (∀ w : OpWord, 2 ≤ w.toNat / 16 → w.toNat / 16 ≤ 9 → w.toNat / 16 ≠ 5 → w.toNat % 16 ≠ 0 →
    decodeOp w = .error .reservedBits) ∧
  decodeOp 0x11 = .ok (.select .AH) ∧ decodeOp 0x12 = .ok (.select .IN) ∧ decodeOp 0x13 = .ok (.select .CMD) ∧
  decodeOp 0x20 = .ok .latch ∧ decodeOp 0x30 = .ok .sample ∧ decodeOp 0x40 = .ok .clock ∧
  decodeOp 0x51 = .ok (.readRow .AH) ∧ decodeOp 0x52 = .ok (.readRow .IN) ∧ decodeOp 0x53 = .ok (.readRow .CMD) ∧
  decodeOp 0x60 = .ok .decode ∧ decodeOp 0x70 = .ok .advance ∧ decodeOp 0x80 = .ok .guard ∧
  decodeOp 0x90 = .ok .poll ∧
  (∀ (s : State) (w : OpWord) (c : DecodeRefusal), s.stop = 0 →
    (s.mode = .autonomous ∧ microprogram[s.phase]? = some w ∨ s.mode = .driven ∧ s.prog[s.phase]? = some w) →
    decodeOp w = .error c →
    step s = .next
      { s with
        stop := match c with
          | .illegalOpcode => 8
          | .reservedBits => 9
          | .selectorLowLow => 10
        stopOp := w
        stopPhase := s.phase })

/-- A few words of every family, written out from the opcode map, decode to the operation they stand for (R66). -/
def Obligations.FamilyWordsDecode : Prop :=
  decodeOp 0b00010010 = .ok (.select .IN) ∧ decodeOp 0b00100000 = .ok .latch ∧
  decodeOp 0b01010011 = .ok (.readRow .CMD) ∧ decodeOp 0b01100000 = .ok .decode ∧
  decodeOp 0b01110000 = .ok .advance ∧ decodeOp 0b10000000 = .ok .guard ∧ decodeOp 0b10010000 = .ok .poll

/-- R53: the levels, the selector field and the row index of each row, and that (LOW, LOW) selects none. -/
def Obligations.SelectorLevels : Prop :=
  Row.levels .AH = (.low, .high) ∧ Row.levels .IN = (.high, .low) ∧ Row.levels .CMD = (.high, .high) ∧
  Row.selector .AH = 0b01 ∧ Row.selector .IN = 0b10 ∧ Row.selector .CMD = 0b11 ∧
  (∀ r : Row, selRow r.levels.1 r.levels.2 = some r ∧ rowOfSelector r.selector = some r) ∧
  (∀ r : Row, r.selector.getLsbD 1 = r.levels.1.bit ∧ r.selector.getLsbD 0 = r.levels.2.bit) ∧
  (∀ r : Row, r.levels ≠ (.low, .low)) ∧ selRow .low .low = none ∧ rowOfSelector 0b00 = none ∧
  rowIndex .AH = 0 ∧ rowIndex .IN = 1 ∧ rowIndex .CMD = 2

/-- The used-position masks say which positions the bit-position table fills, and the button index of a position is
where the table finds its button (30_encoding.md section 3; the spec marks R60 as derived from R59). -/
def Obligations.MasksMatchTheTable : Prop :=
  (∀ (r : Row) (p : Nat), p < 8 → (used r).getLsbD p = (posTable r p).isSome) ∧
  (∀ (r : Row) (p : Nat), p < 8 → used24.getLsbD (buttonIndex r p) = (used r).getLsbD p) ∧
  (∀ (r : Row) (p : Nat), p < 8 → buttonAt (8 * rowIndex r + p) = posTable r p) ∧
  used .AH = 0xFF ∧ used .IN = 0xFC ∧ used .CMD = 0xFE ∧ used24 = 0xFEFCFF

/-- R62: the key code of every button, and that the map is one-to-one. -/
def Obligations.KeyMap : Prop :=
  (List.range 8).map keymap =
    [.char 'h', .char 'g', .char 'f', .char 'e', .char 'd', .char 'c', .char 'b', .char 'a'] ∧
  (List.range' 10 6).map keymap = [.char 'n', .char 'm', .char 'l', .char 'k', .char 'j', .char 'i'] ∧
  (List.range' 17 7).map keymap =
    [.char 'z', .leftShift, .char ' ', .leftAlt, .leftCtrl, .char '1', .char '5'] ∧
  ∀ b c : Nat, used24.getLsbD b = true → used24.getLsbD c = true → keymap b = keymap c → b = c

/-- A line of the assembler's grammar yields legal words only, and each operation's line yields its word
(30_encoding.md section 7). -/
def Obligations.AssemblerSpellsLegalWords : Prop :=
  (∀ i : Instr, assembleLine (lineOf i) = some [encode i]) ∧
  (∀ (line : List Char) (ws : List OpWord), assembleLine line = some ws →
    ws.length ≤ 1 ∧ ∀ w ∈ ws, WellFormed.word w = true)

/-! ### Reset and the sequencer -/

/-- R125: the state after reset, in autonomous mode at PHASE 0, whose first word is SELECT AH. SR and RAW are left
out: the spec gives them no value (log entries 2 and 3). -/
def Obligations.ResetLeaves : Prop :=
  State.reset.selAH = .high ∧ State.reset.selIN = .high ∧ State.reset.lat = .low ∧ State.reset.clk = .low ∧
  State.reset.srValid = false ∧ State.reset.k = 0 ∧ State.reset.nread = 0 ∧ State.reset.lrow = none ∧
  State.reset.snap = 0 ∧ State.reset.snapv = 0b000 ∧ State.reset.active = 0 ∧ State.reset.any = false ∧
  State.reset.lastKey = none ∧ State.reset.pressedOut = 0 ∧ State.reset.releasedOut = 0 ∧ State.reset.out = [] ∧
  State.reset.phase = 0 ∧ State.reset.stop = 0 ∧ State.reset.stopOp = 0x00 ∧ State.reset.stopPhase = 0 ∧
  State.reset.mode = .autonomous ∧ (microprogram[0]?).map decodeOp = some (.ok (.select .AH)) ∧
  ∀ (prog : List OpWord) (params : Params) (env : Env),
    drivenReset prog params env =
      { State.reset with mode := .driven, prog := prog, params := params, env := env }

/-- R101: the 56 words of the microprogram, at the offsets the rule's table gives, which are POLL's expansion with each
READROW expanded; in all 3 latch pulses, 21 clock pulses and 24 reads. -/
def Obligations.MicroprogramTable : Prop :=
  microprogram.length = 56 ∧
  (∀ r : Row,
    microprogram[18 * rowIndex r]? = some (encode (.select r)) ∧
    microprogram[18 * rowIndex r + 1]? = some 0x20 ∧
    microprogram[18 * rowIndex r + 2]? = some 0x30 ∧
    (∀ j : Nat, 1 ≤ j → j ≤ 7 → microprogram[18 * rowIndex r + (2 * j + 1)]? = some 0x40) ∧
    (∀ j : Nat, 1 ≤ j → j ≤ 7 → microprogram[18 * rowIndex r + (2 * j + 2)]? = some 0x30) ∧
    microprogram[18 * rowIndex r + 17]? = some 0x60) ∧
  microprogram[54]? = some 0x70 ∧ microprogram[55]? = some 0x80 ∧
  encode (.select .AH) = 0x11 ∧ encode (.select .IN) = 0x12 ∧ encode (.select .CMD) = 0x13 ∧
  microprogram = (pollExpansion.flatMap fun i =>
    match i with
    | .readRow r => readRowExpansion r
    | i => [i]).map encode ∧
  microprogram.count 0x20 = 3 ∧ microprogram.count 0x40 = 21 ∧ microprogram.count 0x30 = 24

/-- R102, R103: while STOP = 0, a step runs the operation that the word at PHASE decodes to: `MP[PHASE]` in autonomous
mode, `PROG[PHASE]` in driven mode. -/
def Obligations.StepRunsDecoded : Prop :=
  ∀ (s : State) (w : OpWord) (i : Instr), s.stop = 0 →
    (s.mode = .autonomous ∧ microprogram[s.phase]? = some w ∨ s.mode = .driven ∧ s.prog[s.phase]? = some w) →
    decodeOp w = .ok i → step s = exec i s

/-- R112: no operation clears STOP, and a stopped block takes no step, so that it cannot stop again. That the step of
a stopped block is the Lean fault `stopped` is the model's form of it. -/
def Obligations.StoppedBlockTakesNoStep : Prop :=
  (∀ (i : Instr) (s t : State), s.stop ≠ 0 → exec i s = .next t → t.stop ≠ 0) ∧
  (∀ s : State, s.stop ≠ 0 → step s = .fault .stopped ∧ ¬∃ t, step s = .next t)

/-- A driven run ends at PHASE = len(PROG), where there is no further step (43_poll_cycle.md section 2). That the end
is the Lean fault `runComplete` is the model's form of it. -/
def Obligations.DrivenRunEnds : Prop :=
  ∀ s : State, s.complete = true → step s = .fault .runComplete ∧ ¬∃ t, step s = .next t

/-- R35, R104: PHASE moves on by one after each operation that completes, wrapping from 55 to 0 in autonomous mode,
and stays where it is at a stop. No operation jumps. -/
def Obligations.PhaseMovesByOne : Prop :=
  ∀ (i : Instr) (s t : State), s.stop = 0 → exec i s = .next t →
    (t.stop = 0 → s.mode = .autonomous → t.phase = (s.phase + 1) % 56) ∧
    (t.stop = 0 → s.mode = .driven → t.phase = s.phase + 1) ∧
    (t.stop ≠ 0 → t.phase = s.phase)

/-! ### The row read -/

/-- R75: SELECT drives the two select lines to the levels of its row, in the drives the rule lists, and writes nothing
else; during a row read it stops with F_READ_INTERLEAVED (1). -/
def Obligations.SelectDrivesItsRow : Prop :=
  (∀ (r : Row) (s : State), ¬(1 ≤ s.nread.toNat ∧ s.nread.toNat ≤ 7) →
    exec (.select r) s = .next { s with selAH := r.levels.1, selIN := r.levels.2, phase := s.nextPhase }) ∧
  (∀ (r : Row) (s : State), s.driveAll (selectDrives r) = { s with selAH := r.levels.1, selIN := r.levels.2 }) ∧
  selectDrives .AH = [(.selIN, .high), (.selAH, .low)] ∧ selectDrives .IN = [(.selAH, .high), (.selIN, .low)] ∧
  selectDrives .CMD = [(.selAH, .high), (.selIN, .high)] ∧
  (∀ (r : Row) (s : State), 1 ≤ s.nread.toNat → s.nread.toNat ≤ 7 →
    exec (.select r) s = .next { s with stop := 1, stopOp := encode (.select r), stopPhase := s.phase }) ∧
  (∀ r : Row, encode (.select r) = 0x10 ||| (r.selector).zeroExtend 8) ∧ decodeOp 0x10 = .error .selectorLowLow

/-- R82: `SELECT` drives each line going HIGH before each line going LOW, so that every pair on the way is the old
pair, the new pair or (HIGH, HIGH), and never (LOW, LOW); only the moves between AH and IN change both lines. -/
def Obligations.SelectNeverDrivesLowLow : Prop :=
  (∀ r : Row, (selectDrives r).Pairwise fun a b => ¬(a.2 = .low ∧ b.2 = .high)) ∧
  (∀ (r : Row) (s : State) (n : Nat), ¬(s.selAH = .low ∧ s.selIN = .low) →
    let mid := s.driveAll ((selectDrives r).take n)
    ((mid.selAH, mid.selIN) = (s.selAH, s.selIN) ∨ (mid.selAH, mid.selIN) = r.levels ∨
      (mid.selAH, mid.selIN) = (.high, .high)) ∧
    ¬(mid.selAH = .low ∧ mid.selIN = .low)) ∧
  (∀ q r : Row, q.levels.1 ≠ r.levels.1 ∧ q.levels.2 ≠ r.levels.2 ↔ q = .AH ∧ r = .IN ∨ q = .IN ∧ r = .AH)

/-- R76: LATCH captures the draw of the row the select lines hold, sets SR_VALID and LROW and clears K and NREAD;
during a row read it stops with F_READ_INTERLEAVED (1). Nothing is said of RAW, which becomes unwritten (log entry
4). -/
def Obligations.LatchCapturesTheRow : Prop :=
  (∀ (r : Row) (s : State), ¬(1 ≤ s.nread.toNat ∧ s.nread.toNat ≤ 7) → (s.selAH, s.selIN) = r.levels →
    ∃ raw : Vector Bool 8,
      exec .latch s = .next
        { s with
          lat := .low
          sr := s.env.rowPins r
          srValid := true
          lrow := some r
          k := 0
          nread := 0
          raw := raw
          env := { s.env with pins := s.env.pins.tail, count := s.env.count + 1 }
          phase := s.nextPhase }) ∧
  (∀ s : State, 1 ≤ s.nread.toNat → s.nread.toNat ≤ 7 →
    exec .latch s = .next { s with stop := 1, stopOp := 0x20, stopPhase := s.phase }) ∧
  encode .latch = 0x20

/-- R77: SAMPLE writes the level of DATA, the bit SR[0], into RAW[NREAD] and counts the read; before the first LATCH it
stops with F_NOT_LATCHED (2), and at a position already read with F_SAMPLE_POSITION (3), checked in that order. -/
def Obligations.SampleReadsTheDataLine : Prop :=
  (∀ s : State, s.srValid = true → s.nread.toNat = s.k.toNat →
    ∃ raw : Vector Bool 8,
      exec .sample s = .next { s with raw := raw, nread := s.nread + 1, phase := s.nextPhase } ∧
      ∀ j : Nat, j < 8 → (rawByte raw).getLsbD j =
        if j = s.nread.toNat then s.sr.getLsbD 0 else (rawByte s.raw).getLsbD j) ∧
  (∀ s : State, s.srValid = false →
    exec .sample s = .next { s with stop := 2, stopOp := 0x30, stopPhase := s.phase }) ∧
  (∀ s : State, s.srValid = true → s.nread.toNat ≠ s.k.toNat →
    exec .sample s = .next { s with stop := 3, stopOp := 0x30, stopPhase := s.phase }) ∧
  encode .sample = 0x30

/-- R78: CLOCK pulses CLK, shifts the register one place toward SR[0] with the serial draw at SR[7], and counts the
pulse; before the first LATCH it stops with F_NOT_LATCHED (2), and at the seventh pulse or an unread bit with
F_CLOCK_POSITION (4), checked in that order. -/
def Obligations.ClockShiftsTheRegister : Prop :=
  (∀ s : State, s.srValid = true → s.k ≠ 7 → s.nread.toNat = s.k.toNat + 1 →
    ∃ sr : Byte,
      exec .clock s = .next
        { s with
          clk := .low
          sr := sr
          k := s.k + 1
          env := { s.env with serial := s.env.serial.tail, count := s.env.count + 1 }
          phase := s.nextPhase } ∧
      sr.getLsbD 7 = s.env.serialIn ∧ ∀ j : Nat, j < 7 → sr.getLsbD j = s.sr.getLsbD (j + 1)) ∧
  (∀ s : State, s.srValid = false →
    exec .clock s = .next { s with stop := 2, stopOp := 0x40, stopPhase := s.phase }) ∧
  (∀ s : State, s.srValid = true → s.k = 7 ∨ s.nread.toNat ≠ s.k.toNat + 1 →
    exec .clock s = .next { s with stop := 4, stopOp := 0x40, stopPhase := s.phase }) ∧
  encode .clock = 0x40

/-- R22: while SR_VALID = 1 the level of DATA is that of the stage SR[0]. -/
def Obligations.DataFollowsTheRegister : Prop :=
  ∀ s : State, s.srValid = true → s.dataLevel = Level.ofBit (s.sr.getLsbD 0) ∧ s.dataLevel.bit = s.sr.getLsbD 0

/-- The result of a row read (40_row_mux.md section 3, the sentence that RAW, NREAD, K, LROW and the lines hold the
row's value after a complete READROW, which the spec marks as derived), and everything else as before. -/
def Obligations.ReadRowResult : Prop :=
  ∀ (r : Row) (s : State), ¬(1 ≤ s.nread.toNat ∧ s.nread.toNat ≤ 7) →
    ∃ t : State, exec (.readRow r) s = .next t ∧
      rawByte t.raw = s.env.rowPins r ∧ t.nread = 8 ∧ t.k = 7 ∧ t.lrow = some r ∧
      (t.selAH, t.selIN) = r.levels ∧ t.lat = .low ∧ t.clk = .low ∧ t.srValid = true ∧
      t.sr.getLsbD 0 = (s.env.rowPins r).getLsbD 7 ∧ t.env = s.env.afterRow ∧ t.phase = s.nextPhase ∧
      t.stop = s.stop ∧ t.stopOp = s.stopOp ∧ t.stopPhase = s.stopPhase ∧ t.out = s.out ∧
      SnapshotKept s t ∧ PressStateKept s t ∧ ConfigurationKept s t

/-- R79: READROW is one step with the effect of its 17 micro-operations, none of which stops after the first; issued
during a row read it stops as its SELECT does. -/
def Obligations.ReadRowIsItsExpansion : Prop :=
  (∀ (r : Row) (s : State), s.stop = 0 → ¬(1 ≤ s.nread.toNat ∧ s.nread.toNat ≤ 7) →
    ∃ t u : State, exec (.readRow r) s = .next t ∧ t.stop = 0 ∧
      runOps (readRowExpansion r) s = .next u ∧ t = { u with phase := s.nextPhase }) ∧
  (∀ (r : Row) (s : State), 1 ≤ s.nread.toNat → s.nread.toNat ≤ 7 →
    exec (.readRow r) s = .next { s with stop := 1, stopOp := encode (.select r), stopPhase := s.phase }) ∧
  (∀ r : Row, (readRowExpansion r).length = 17) ∧
  (∀ r : Row, encode (.readRow r) = 0x50 ||| (r.selector).zeroExtend 8) ∧ decodeOp 0x50 = .error .selectorLowLow

/-! ### The decoder -/

/-- R84: a position is pressed exactly when it carries a button and its bit is 0, and the vector of a row is that mask
moved to the row's slice. -/
def Obligations.PressedPositions : Prop :=
  (∀ (r : Row) (bits : Byte) (p : Nat), p < 8 →
    (pressed8 r bits).getLsbD p = ((posTable r p).isSome && !bits.getLsbD p)) ∧
  (∀ (r : Row) (bits : Byte) (b : Nat),
    (decodeRow r bits).getLsbD b =
      (decide (8 * rowIndex r ≤ b) && (pressed8 r bits).getLsbD (b - 8 * rowIndex r)))

/-- Unused positions never affect the result (41_decoder.md section 3, derived there from the decode function). -/
def Obligations.UnusedPositionsIgnored : Prop :=
  ∀ (r : Row) (bits x : Byte), x &&& used r = 0 → decodeRow r (bits ^^^ x) = decodeRow r bits

/-- R85: DECODE writes the row's slice of SNAP and its bit of SNAPV; with fewer than 8 reads it stops with
F_DECODE_INCOMPLETE (5), and out of the cycle's order with F_DECODE_ORDER (6), checked in that order. -/
def Obligations.DecodeAddsTheRow : Prop :=
  (∀ (r : Row) (s : State), s.nread = 8 → s.lrow = some r →
    s.snapv = (match r with | .AH => 0b000 | .IN => 0b001 | .CMD => 0b011) →
    ∃ snap : ButtonVec,
      exec .decode s = .next
        { s with
          snap := snap
          snapv := match r with | .AH => 0b001 | .IN => 0b011 | .CMD => 0b111
          phase := s.nextPhase } ∧
      sliceOf snap r = pressed8 r (rawByte s.raw) ∧ ∀ q : Row, q ≠ r → sliceOf snap q = sliceOf s.snap q) ∧
  (∀ s : State, s.nread ≠ 8 →
    exec .decode s = .next { s with stop := 5, stopOp := 0x60, stopPhase := s.phase }) ∧
  (∀ (r : Row) (s : State), s.nread = 8 → s.lrow = some r →
    s.snapv ≠ (match r with | .AH => 0b000 | .IN => 0b001 | .CMD => 0b011) →
    exec .decode s = .next { s with stop := 6, stopOp := 0x60, stopPhase := s.phase }) ∧
  encode .decode = 0x60

/-- After a cycle's three reads and decodes, SNAPV = 0b111 and SNAP is the union of the three rows' decodes
(41_decoder.md section 3, derived there). -/
def Obligations.SnapshotIsTheUnion : Prop :=
  ∀ s : State, s.stop = 0 → CycleStart s →
    ∃ t : State,
      runOps [.readRow .AH, .decode, .readRow .IN, .decode, .readRow .CMD, .decode] s = .next t ∧
      t.snapv = 0b111 ∧ t.snap = cycleSnapshot s.env ∧ t.stop = 0 ∧ t.out = s.out ∧ PressStateKept s t

/-! ### The press-state machine -/

/-- R89: the transition under the default PRESS_ORDER. On a non-empty snapshot one Press per new button in ascending
order, LAST_KEY the last of them; on an empty one a ReleaseAll as RELEASE_ALL_ONLY_IF_ACTIVE says. The snapshot is
discarded. An incomplete cycle stops with F_ADVANCE_INCOMPLETE (7). -/
def Obligations.AdvanceTransition : Prop :=
  (∀ s : State, s.snapv = 0b111 → s.snap ≠ 0 → s.params.pressOrder = .ascending →
    exec .advance s = .next
      { s with
        out := s.out ++ (ascendingButtons (s.snap &&& ~~~s.active)).map (fun b => Event.press (keymap b))
        lastKey := match (ascendingButtons (s.snap &&& ~~~s.active)).getLast? with
          | some b => some (keymap b)
          | none => s.lastKey
        active := s.active ||| s.snap
        any := true
        pressedOut := s.snap &&& ~~~s.active
        releasedOut := 0
        snap := 0
        snapv := 0b000
        phase := s.nextPhase }) ∧
  (∀ s : State, s.snapv = 0b111 → s.snap = 0 →
    exec .advance s = .next
      { s with
        out := s.out ++
          (if s.params.releaseAllOnlyIfActive = true ∧ s.active = 0 then [] else [Event.releaseAll])
        releasedOut := s.active
        pressedOut := 0
        active := 0
        lastKey := none
        any := false
        snap := 0
        snapv := 0b000
        phase := s.nextPhase }) ∧
  (∀ s : State, s.snapv ≠ 0b111 →
    exec .advance s = .next { s with stop := 7, stopOp := 0x70, stopPhase := s.phase }) ∧
  encode .advance = 0x70

/-- R90: the presses of one ADVANCE come one per new button, in ascending button index under the default PRESS_ORDER
and in some permutation of the new buttons under PRESS_ORDER = any; LAST_KEY is the last one emitted, and PRESSED_OUT,
ACTIVE and ANY are the same under every order. That any permutation may come is the last clause: each is the order of
some pick sequence, and the model's pick is a free value (log entry 8). -/
def Obligations.PressOrderReadings : Prop :=
  (∀ s : State, s.snapv = 0b111 → s.snap ≠ 0 →
    ∃ order : List Nat, order.Perm (ascendingButtons (s.snap &&& ~~~s.active)) ∧
      (s.params.pressOrder = .ascending → order.Pairwise (· < ·)) ∧
      exec .advance s = .next
        { s with
          out := s.out ++ order.map (fun b => Event.press (keymap b))
          lastKey := match order.getLast? with
            | some b => some (keymap b)
            | none => s.lastKey
          active := s.active ||| s.snap
          any := true
          pressedOut := s.snap &&& ~~~s.active
          releasedOut := 0
          snap := 0
          snapv := 0b000
          env := match s.params.pressOrder with
            | .ascending => s.env
            | .any => { s.env with count := s.env.count + 1 }
          phase := s.nextPhase }) ∧
  (∀ (v : ButtonVec) (count : Nat), pressSequence .any count v =
    permuteBy (Config.pressPick count) (ascendingButtons v).length (ascendingButtons v)) ∧
  (∀ (v : ButtonVec) (order : List Nat), order.Perm (ascendingButtons v) →
    ∃ pick : Nat → Nat, permuteBy pick (ascendingButtons v).length (ascendingButtons v) = order)

/-- R91: an empty snapshot emits exactly one ReleaseAll by default; with RELEASE_ALL_ONLY_IF_ACTIVE it does so only if
something was active. RELEASED_OUT and the state are the same under both readings, and that something was active is the
same as LAST_KEY being a key, where the two agree (R38 item 6). -/
def Obligations.ReleaseAllReadings : Prop :=
  ∀ (s : State) (only : Bool), s.snapv = 0b111 → s.snap = 0 →
    ∃ t u : State,
      exec .advance { s with params := { s.params with releaseAllOnlyIfActive := false } } = .next t ∧
      exec .advance { s with params := { s.params with releaseAllOnlyIfActive := only } } = .next u ∧
      t.out = s.out ++ [.releaseAll] ∧
      (only = true → s.active = 0 → u.out = s.out) ∧ (s.active ≠ 0 → u.out = t.out) ∧
      u = { t with out := u.out, params := u.params } ∧ t.releasedOut = s.active ∧
      (PressAgrees s → (u.out = t.out ↔ only = false ∨ s.lastKey ≠ none))

/-- R93: GUARD emits Delay(GUARD_DELAY) when ANY = 1 and does nothing when ANY = 0; it never stops. -/
def Obligations.GuardWaitsWhileAny : Prop :=
  (∀ s : State, s.any = true →
    exec .guard s = .next { s with out := s.out ++ [.delay .guardDelay], phase := s.nextPhase }) ∧
  (∀ s : State, s.any = false → exec .guard s = .next { s with phase := s.nextPhase }) ∧
  encode .guard = 0x80

/-- Hold until fully clear (42_debounce_fsm.md section 2, derived there): over any sequence of non-empty snapshots,
ACTIVE only grows, no ReleaseAll is emitted, and no active button is pressed again. -/
def Obligations.HoldUntilFullyClear : Prop :=
  ∀ (vs : List ButtonVec) (s : State), (∀ v ∈ vs, v ≠ 0 ∧ v &&& ~~~used24 = 0) → s.active &&& ~~~used24 = 0 →
    ∃ (t : State) (evs : List Event), advanceAll vs s = .next t ∧ t.out = s.out ++ evs ∧
      s.active &&& ~~~t.active = 0 ∧ (∀ v ∈ vs, v &&& ~~~t.active = 0) ∧ Event.releaseAll ∉ evs ∧
      ∀ b : Nat, s.active.getLsbD b = true → Event.press (keymap b) ∉ evs

/-- No duplicate presses (42_debounce_fsm.md section 2, derived there): the second ADVANCE of two with the same
non-empty snapshot emits nothing and changes no press state but PRESSED_OUT. -/
def Obligations.NoDuplicatePresses : Prop :=
  ∀ (s : State) (v : ButtonVec), v ≠ 0 →
    ∃ t u : State, exec .advance (s.withSnapshot v) = .next t ∧ exec .advance (t.withSnapshot v) = .next u ∧
      u.pressedOut = 0 ∧ u.out = t.out ∧ u.active = t.active ∧ u.any = t.any ∧ u.lastKey = t.lastKey

/-- Release completeness (42_debounce_fsm.md section 2, derived there): after a non-empty snapshot, an empty one
releases exactly the whole active set, which is not empty, with one ReleaseAll, under both readings of
RELEASE_ALL_ONLY_IF_ACTIVE. -/
def Obligations.ReleaseCompleteness : Prop :=
  ∀ (s : State) (v : ButtonVec), v ≠ 0 →
    ∃ t u : State, exec .advance (s.withSnapshot v) = .next t ∧ exec .advance (t.withSnapshot 0) = .next u ∧
      u.releasedOut = t.active ∧ u.releasedOut ≠ 0 ∧ u.active = 0 ∧ u.out = t.out ++ [.releaseAll]

/-- Round trip (42_debounce_fsm.md section 2, derived there): a button pressed, held for any number of cycles and
released gives exactly one Press and one ReleaseAll, with one Delay per cycle in which it is held. -/
def Obligations.PressHoldReleaseRoundTrip : Prop :=
  ∀ (n b : Nat) (s : State), b < 24 → s.stop = 0 → s.active = 0 →
    ∃ t u : State,
      advanceAll (List.replicate (n + 1) (1#24 <<< b) ++ [0]) s = .next t ∧
      t.out = s.out ++ [.press (keymap b), .releaseAll] ∧
      advanceGuardAll (List.replicate (n + 1) (1#24 <<< b) ++ [0]) s = .next u ∧
      u.out = s.out ++ ([.press (keymap b)] ++ (List.replicate (n + 1) (.delay .guardDelay) ++ [.releaseAll])) ∧
      transportCalls u.out = transportCalls s.out ++ [.press (keymap b), .releaseAll]

/-- R120: the transport is sent press(k) for each Press and releaseAll() for each ReleaseAll, in the order of OUT, and
nothing for a Delay. -/
def Obligations.TransportGetsNoDelay : Prop :=
  transportCalls [] = [] ∧
  (∀ (out : List Event) (k : KeyCode), transportCalls (out ++ [.press k]) = transportCalls out ++ [.press k]) ∧
  (∀ out : List Event, transportCalls (out ++ [.releaseAll]) = transportCalls out ++ [.releaseAll]) ∧
  (∀ (out : List Event) (d : Duration), transportCalls (out ++ [.delay d]) = transportCalls out)

/-! ### The cycle -/

/-- R99: POLL is one step with the effect of its expansion, ending at SNAPV = 0b000, NREAD = 8, K = 7, LROW = CMD and
the lines at (HIGH, HIGH); during a row read it stops as its SELECT AH does, and with a partial cycle pending it stops
at its first DECODE, its READROW AH kept. -/
def Obligations.PollIsItsExpansion : Prop :=
  (∀ s : State, s.stop = 0 → CycleStart s →
    ∃ t u : State, exec .poll s = .next t ∧ t.stop = 0 ∧
      runOps pollExpansion s = .next u ∧ t = { u with phase := s.nextPhase } ∧
      t.snapv = 0b000 ∧ t.nread = 8 ∧ t.k = 7 ∧ t.lrow = some .CMD ∧ t.selAH = .high ∧ t.selIN = .high) ∧
  (∀ s : State, 1 ≤ s.nread.toNat → s.nread.toNat ≤ 7 →
    exec .poll s = .next { s with stop := 1, stopOp := 0x11, stopPhase := s.phase }) ∧
  (∀ s : State, s.nread = 0 ∨ s.nread = 8 → s.snapv ≠ 0b000 →
    ∃ u : State, exec (.readRow .AH) s = .next u ∧
      exec .poll s = .next { u with phase := s.phase, stop := 6, stopOp := 0x60, stopPhase := s.phase }) ∧
  encode .poll = 0x90

/-- One autonomous cycle, 56 steps from PHASE = 0, gives the state and the trace of one POLL with the same draws,
except for PHASE (43_poll_cycle.md sections 1 and 2). -/
def Obligations.AutonomousCycleIsPoll : Prop :=
  ∀ s : State, s.mode = .autonomous → s.stop = 0 → s.phase = 0 → CycleStart s →
    ∃ t u : State, Sys2Proof.core.run 56 s = .next t ∧ exec .poll s = .next u ∧ u.phase = 1 ∧
      t = { u with phase := 0 }

/-- One cycle in sum (43_poll_cycle.md section 3, derived there), under the default PRESS_ORDER: the events and the
active set after the 56 steps, from the three rows' draws. -/
def Obligations.AutonomousCycleInSum : Prop :=
  ∀ s : State, s.mode = .autonomous → s.stop = 0 → s.phase = 0 → CycleStart s →
    s.params.pressOrder = .ascending →
    ∃ t : State, Sys2Proof.core.run 56 s = .next t ∧ t.phase = 0 ∧ t.stop = 0 ∧ CycleStart t ∧
      (cycleSnapshot s.env ≠ 0 →
        t.active = s.active ||| cycleSnapshot s.env ∧
        t.out = s.out ++
          ((ascendingButtons (cycleSnapshot s.env &&& ~~~s.active)).map (fun b => Event.press (keymap b)) ++
            [.delay .guardDelay])) ∧
      (cycleSnapshot s.env = 0 →
        t.active = 0 ∧
        t.out = s.out ++
          (if s.params.releaseAllOnlyIfActive = true ∧ s.active = 0 then [] else [.releaseAll]))

/-- Autonomous mode never stops (43_poll_cycle.md section 2, derived there): from every state that stands in the cycle
as its PHASE says, a step is taken, and the state after it stands in the cycle again. -/
def Obligations.AutonomousModeNeverStops : Prop :=
  ∀ s : State, InCycle s → ∃ t : State, step s = .next t ∧ t.stop = 0 ∧ InCycle t

/-- The state after reset stands in the cycle, and a cycle can start there (43_poll_cycle.md section 2). -/
def Obligations.ResetStandsInTheCycle : Prop := InCycle State.reset ∧ CycleStart State.reset

/-- What the shift register's serial input and the unused positions are never reaches the host or the press state
(41_decoder.md and 40_row_mux.md, the properties sections): two POLLs whose row draws agree at the used positions, and
whose serial draws and stale SR and RAW are whatever they are, emit the same events. -/
def Obligations.UnusedPinsNeverReachTheHost : Prop :=
  ∀ (s : State) (a b c a' b' c' : Byte) (rest : List Byte) (serial' : List Bool) (sr' : Byte) (raw' : Vector Bool 8),
    CycleStart s → s.env.pins = [a, b, c] ++ rest →
    a &&& used .AH = a' &&& used .AH → b &&& used .IN = b' &&& used .IN → c &&& used .CMD = c' &&& used .CMD →
    ∃ t t' : State, exec .poll s = .next t ∧
      exec .poll { s with
        sr := sr'
        raw := raw'
        env := { s.env with pins := [a', b', c'] ++ rest, serial := serial' } } = .next t' ∧
      t'.out = t.out ∧ PressStateKept t t' ∧ SnapshotKept t t' ∧ t'.stop = t.stop

/-! ### Stops, frames and invariants -/

/-- R111: a micro-operation either completes and leaves STOP, STOP_OP and STOP_PHASE as they were, or it stops and
changes nothing but these three, which hold a code 1 to 7, its own word and PHASE. -/
def Obligations.StopIsPrecise : Prop :=
  ∀ (i : Instr) (s t : State), (∀ r, i ≠ .readRow r) → i ≠ .poll → exec i s = .next t →
    (t.stop = s.stop ∧ t.stopOp = s.stopOp ∧ t.stopPhase = s.stopPhase ∧ t.phase = s.nextPhase) ∨
    (1 ≤ t.stop.toNat ∧ t.stop.toNat ≤ 7 ∧ i ≠ .guard ∧
      t = { s with stop := t.stop, stopOp := encode i, stopPhase := s.phase })

/-- The frame of SELECT, LATCH, SAMPLE, CLOCK and READROW: what each leaves as it was when it gives a next state (R20,
R23 to R30). The registers named last in each clause's comment are the ones it may write. -/
def Obligations.LineOperationsFrame : Prop :=
  (∀ (r : Row) (s t : State), exec (.select r) s = .next t →   -- SEL_AH, SEL_IN
    t.lat = s.lat ∧ t.clk = s.clk ∧ ReaderKept s t ∧ t.env = s.env) ∧
  (∀ s t : State, exec .latch s = .next t →   -- LAT, SR, SR_VALID, LROW, K, NREAD, RAW
    t.selAH = s.selAH ∧ t.selIN = s.selIN ∧ t.clk = s.clk) ∧
  (∀ s t : State, exec .sample s = .next t →   -- RAW[NREAD], NREAD
    LinesKept s t ∧ t.sr = s.sr ∧ t.srValid = s.srValid ∧ t.k = s.k ∧ t.lrow = s.lrow ∧ t.env = s.env ∧
    ∀ j : Nat, j ≠ s.nread.toNat → (rawByte t.raw).getLsbD j = (rawByte s.raw).getLsbD j) ∧
  (∀ s t : State, exec .clock s = .next t →   -- CLK, SR, K
    t.selAH = s.selAH ∧ t.selIN = s.selIN ∧ t.lat = s.lat ∧ t.srValid = s.srValid ∧ t.raw = s.raw ∧
    t.nread = s.nread ∧ t.lrow = s.lrow) ∧
  (∀ (i : Instr) (r : Row) (s t : State), i ∈ [.select r, .latch, .sample, .clock, .readRow r] →
    exec i s = .next t →
    SnapshotKept s t ∧ PressStateKept s t ∧ ConfigurationKept s t ∧ t.out = s.out ∧ StopKeptUnlessStopped s t)

/-- The frame of DECODE, ADVANCE, GUARD and POLL: what each leaves as it was when it gives a next state. DECODE may
write SNAP and SNAPV; ADVANCE these, the press state, OUT and the draw counter; GUARD OUT; POLL all but the
configuration. -/
def Obligations.DecodeAdvanceGuardPollFrame : Prop :=
  (∀ s t : State, exec .decode s = .next t →
    LinesKept s t ∧ ReaderKept s t ∧ PressStateKept s t ∧ t.out = s.out ∧ t.env = s.env) ∧
  (∀ s t : State, exec .advance s = .next t →
    LinesKept s t ∧ ReaderKept s t ∧ t.env.pins = s.env.pins ∧ t.env.serial = s.env.serial) ∧
  (∀ s t : State, exec .guard s = .next t →
    LinesKept s t ∧ ReaderKept s t ∧ SnapshotKept s t ∧ PressStateKept s t ∧ t.env = s.env ∧ t.stop = s.stop) ∧
  (∀ (i : Instr) (s t : State), i ∈ [.decode, .advance, .guard, .poll] → exec i s = .next t →
    ConfigurationKept s t ∧ StopKeptUnlessStopped s t)

/-- R33: OUT only grows, and only ADVANCE and GUARD emit (with POLL, which runs them); and no operation but ADVANCE
(and POLL) writes the press state. -/
def Obligations.OnlyAdvanceAndGuardEmit : Prop :=
  (∀ (i : Instr) (s t : State), exec i s = .next t → ∃ evs : List Event, t.out = s.out ++ evs) ∧
  (∀ (i : Instr) (s t : State), i ≠ .advance → i ≠ .guard → i ≠ .poll → exec i s = .next t → t.out = s.out) ∧
  (∀ (i : Instr) (s t : State), i ≠ .advance → i ≠ .poll → exec i s = .next t → PressStateKept s t)

/-- The invariants hold after reset (10_state.md section 7). -/
def Obligations.ResetMeetsInv : Prop := MachineInv State.reset

/-- Every step keeps the invariants, from every state that meets them (10_state.md section 7, derived there). -/
def Obligations.StepKeepsInv : Prop :=
  ∀ s t : State, MachineInv s → step s = .next t → MachineInv t

/-- A state that meets the invariants has a next step unless it has stopped or its driven run is done; no step is
refused (10_state.md section 7 and 60_exceptions.md section 1). -/
def Obligations.OnlyTerminalStatesHaveNoStep : Prop :=
  ∀ s : State, MachineInv s →
    (∃ t, step s = .next t) ∨ (s.stop ≠ 0 ∧ step s = .fault .stopped) ∨
      (s.complete = true ∧ step s = .fault .runComplete)
end

