-- ==== Sys2Proof/Laws/State.lean ====
section
/-! SUPPORT. One lemma per field per update of the state, so that no later proof unfolds a record update. -/

namespace Sys2Proof.Machine

@[simp] theorem State.drive_sr (s : State) (l : Line) (v : Level) : (s.drive l v).sr = s.sr := by cases l <;> rfl
@[simp] theorem State.drive_srValid (s : State) (l : Line) (v : Level) : (s.drive l v).srValid = s.srValid := by cases l <;> rfl
@[simp] theorem State.drive_k (s : State) (l : Line) (v : Level) : (s.drive l v).k = s.k := by cases l <;> rfl
@[simp] theorem State.drive_raw (s : State) (l : Line) (v : Level) : (s.drive l v).raw = s.raw := by cases l <;> rfl
@[simp] theorem State.drive_nread (s : State) (l : Line) (v : Level) : (s.drive l v).nread = s.nread := by cases l <;> rfl
@[simp] theorem State.drive_lrow (s : State) (l : Line) (v : Level) : (s.drive l v).lrow = s.lrow := by cases l <;> rfl
@[simp] theorem State.drive_snap (s : State) (l : Line) (v : Level) : (s.drive l v).snap = s.snap := by cases l <;> rfl
@[simp] theorem State.drive_snapv (s : State) (l : Line) (v : Level) : (s.drive l v).snapv = s.snapv := by cases l <;> rfl
@[simp] theorem State.drive_active (s : State) (l : Line) (v : Level) : (s.drive l v).active = s.active := by cases l <;> rfl
@[simp] theorem State.drive_any (s : State) (l : Line) (v : Level) : (s.drive l v).any = s.any := by cases l <;> rfl
@[simp] theorem State.drive_lastKey (s : State) (l : Line) (v : Level) : (s.drive l v).lastKey = s.lastKey := by cases l <;> rfl
@[simp] theorem State.drive_out (s : State) (l : Line) (v : Level) : (s.drive l v).out = s.out := by cases l <;> rfl
@[simp] theorem State.drive_pressedOut (s : State) (l : Line) (v : Level) : (s.drive l v).pressedOut = s.pressedOut := by cases l <;> rfl
@[simp] theorem State.drive_releasedOut (s : State) (l : Line) (v : Level) : (s.drive l v).releasedOut = s.releasedOut := by cases l <;> rfl
@[simp] theorem State.drive_phase (s : State) (l : Line) (v : Level) : (s.drive l v).phase = s.phase := by cases l <;> rfl
@[simp] theorem State.drive_stop (s : State) (l : Line) (v : Level) : (s.drive l v).stop = s.stop := by cases l <;> rfl
@[simp] theorem State.drive_stopOp (s : State) (l : Line) (v : Level) : (s.drive l v).stopOp = s.stopOp := by cases l <;> rfl
@[simp] theorem State.drive_stopPhase (s : State) (l : Line) (v : Level) : (s.drive l v).stopPhase = s.stopPhase := by cases l <;> rfl
@[simp] theorem State.drive_mode (s : State) (l : Line) (v : Level) : (s.drive l v).mode = s.mode := by cases l <;> rfl
@[simp] theorem State.drive_prog (s : State) (l : Line) (v : Level) : (s.drive l v).prog = s.prog := by cases l <;> rfl
@[simp] theorem State.drive_params (s : State) (l : Line) (v : Level) : (s.drive l v).params = s.params := by cases l <;> rfl
@[simp] theorem State.drive_env (s : State) (l : Line) (v : Level) : (s.drive l v).env = s.env := by cases l <;> rfl

@[simp] theorem State.drive_selAH_selAH (s : State) (v : Level) : (s.drive .selAH v).selAH = v := rfl
@[simp] theorem State.drive_selAH_selIN (s : State) (v : Level) : (s.drive .selAH v).selIN = s.selIN := rfl
@[simp] theorem State.drive_selAH_lat (s : State) (v : Level) : (s.drive .selAH v).lat = s.lat := rfl
@[simp] theorem State.drive_selAH_clk (s : State) (v : Level) : (s.drive .selAH v).clk = s.clk := rfl
@[simp] theorem State.drive_selIN_selAH (s : State) (v : Level) : (s.drive .selIN v).selAH = s.selAH := rfl
@[simp] theorem State.drive_selIN_selIN (s : State) (v : Level) : (s.drive .selIN v).selIN = v := rfl
@[simp] theorem State.drive_selIN_lat (s : State) (v : Level) : (s.drive .selIN v).lat = s.lat := rfl
@[simp] theorem State.drive_selIN_clk (s : State) (v : Level) : (s.drive .selIN v).clk = s.clk := rfl
@[simp] theorem State.drive_lat_selAH (s : State) (v : Level) : (s.drive .lat v).selAH = s.selAH := rfl
@[simp] theorem State.drive_lat_selIN (s : State) (v : Level) : (s.drive .lat v).selIN = s.selIN := rfl
@[simp] theorem State.drive_lat_lat (s : State) (v : Level) : (s.drive .lat v).lat = v := rfl
@[simp] theorem State.drive_lat_clk (s : State) (v : Level) : (s.drive .lat v).clk = s.clk := rfl
@[simp] theorem State.drive_clk_selAH (s : State) (v : Level) : (s.drive .clk v).selAH = s.selAH := rfl
@[simp] theorem State.drive_clk_selIN (s : State) (v : Level) : (s.drive .clk v).selIN = s.selIN := rfl
@[simp] theorem State.drive_clk_lat (s : State) (v : Level) : (s.drive .clk v).lat = s.lat := rfl
@[simp] theorem State.drive_clk_clk (s : State) (v : Level) : (s.drive .clk v).clk = v := rfl

@[simp] theorem State.pulse_sr (s : State) (l : Line) : (s.pulse l).sr = s.sr := by cases l <;> rfl
@[simp] theorem State.pulse_srValid (s : State) (l : Line) : (s.pulse l).srValid = s.srValid := by cases l <;> rfl
@[simp] theorem State.pulse_k (s : State) (l : Line) : (s.pulse l).k = s.k := by cases l <;> rfl
@[simp] theorem State.pulse_raw (s : State) (l : Line) : (s.pulse l).raw = s.raw := by cases l <;> rfl
@[simp] theorem State.pulse_nread (s : State) (l : Line) : (s.pulse l).nread = s.nread := by cases l <;> rfl
@[simp] theorem State.pulse_lrow (s : State) (l : Line) : (s.pulse l).lrow = s.lrow := by cases l <;> rfl
@[simp] theorem State.pulse_snap (s : State) (l : Line) : (s.pulse l).snap = s.snap := by cases l <;> rfl
@[simp] theorem State.pulse_snapv (s : State) (l : Line) : (s.pulse l).snapv = s.snapv := by cases l <;> rfl
@[simp] theorem State.pulse_active (s : State) (l : Line) : (s.pulse l).active = s.active := by cases l <;> rfl
@[simp] theorem State.pulse_any (s : State) (l : Line) : (s.pulse l).any = s.any := by cases l <;> rfl
@[simp] theorem State.pulse_lastKey (s : State) (l : Line) : (s.pulse l).lastKey = s.lastKey := by cases l <;> rfl
@[simp] theorem State.pulse_out (s : State) (l : Line) : (s.pulse l).out = s.out := by cases l <;> rfl
@[simp] theorem State.pulse_pressedOut (s : State) (l : Line) : (s.pulse l).pressedOut = s.pressedOut := by cases l <;> rfl
@[simp] theorem State.pulse_releasedOut (s : State) (l : Line) : (s.pulse l).releasedOut = s.releasedOut := by cases l <;> rfl
@[simp] theorem State.pulse_phase (s : State) (l : Line) : (s.pulse l).phase = s.phase := by cases l <;> rfl
@[simp] theorem State.pulse_stop (s : State) (l : Line) : (s.pulse l).stop = s.stop := by cases l <;> rfl
@[simp] theorem State.pulse_stopOp (s : State) (l : Line) : (s.pulse l).stopOp = s.stopOp := by cases l <;> rfl
@[simp] theorem State.pulse_stopPhase (s : State) (l : Line) : (s.pulse l).stopPhase = s.stopPhase := by cases l <;> rfl
@[simp] theorem State.pulse_mode (s : State) (l : Line) : (s.pulse l).mode = s.mode := by cases l <;> rfl
@[simp] theorem State.pulse_prog (s : State) (l : Line) : (s.pulse l).prog = s.prog := by cases l <;> rfl
@[simp] theorem State.pulse_params (s : State) (l : Line) : (s.pulse l).params = s.params := by cases l <;> rfl
@[simp] theorem State.pulse_env (s : State) (l : Line) : (s.pulse l).env = s.env := by cases l <;> rfl

@[simp] theorem State.pulse_lat_selAH (s : State) : (s.pulse .lat).selAH = s.selAH := rfl
@[simp] theorem State.pulse_lat_selIN (s : State) : (s.pulse .lat).selIN = s.selIN := rfl
@[simp] theorem State.pulse_lat_lat (s : State) : (s.pulse .lat).lat = .low := rfl
@[simp] theorem State.pulse_lat_clk (s : State) : (s.pulse .lat).clk = s.clk := rfl
@[simp] theorem State.pulse_clk_selAH (s : State) : (s.pulse .clk).selAH = s.selAH := rfl
@[simp] theorem State.pulse_clk_selIN (s : State) : (s.pulse .clk).selIN = s.selIN := rfl
@[simp] theorem State.pulse_clk_lat (s : State) : (s.pulse .clk).lat = s.lat := rfl
@[simp] theorem State.pulse_clk_clk (s : State) : (s.pulse .clk).clk = .low := rfl

@[simp] theorem State.emit_selAH (s : State) (evs : List Event) : (s.emit evs).selAH = s.selAH := rfl
@[simp] theorem State.emit_selIN (s : State) (evs : List Event) : (s.emit evs).selIN = s.selIN := rfl
@[simp] theorem State.emit_lat (s : State) (evs : List Event) : (s.emit evs).lat = s.lat := rfl
@[simp] theorem State.emit_clk (s : State) (evs : List Event) : (s.emit evs).clk = s.clk := rfl
@[simp] theorem State.emit_sr (s : State) (evs : List Event) : (s.emit evs).sr = s.sr := rfl
@[simp] theorem State.emit_srValid (s : State) (evs : List Event) : (s.emit evs).srValid = s.srValid := rfl
@[simp] theorem State.emit_k (s : State) (evs : List Event) : (s.emit evs).k = s.k := rfl
@[simp] theorem State.emit_raw (s : State) (evs : List Event) : (s.emit evs).raw = s.raw := rfl
@[simp] theorem State.emit_nread (s : State) (evs : List Event) : (s.emit evs).nread = s.nread := rfl
@[simp] theorem State.emit_lrow (s : State) (evs : List Event) : (s.emit evs).lrow = s.lrow := rfl
@[simp] theorem State.emit_snap (s : State) (evs : List Event) : (s.emit evs).snap = s.snap := rfl
@[simp] theorem State.emit_snapv (s : State) (evs : List Event) : (s.emit evs).snapv = s.snapv := rfl
@[simp] theorem State.emit_active (s : State) (evs : List Event) : (s.emit evs).active = s.active := rfl
@[simp] theorem State.emit_any (s : State) (evs : List Event) : (s.emit evs).any = s.any := rfl
@[simp] theorem State.emit_lastKey (s : State) (evs : List Event) : (s.emit evs).lastKey = s.lastKey := rfl
@[simp] theorem State.emit_out (s : State) (evs : List Event) : (s.emit evs).out = s.out ++ evs := rfl
@[simp] theorem State.emit_pressedOut (s : State) (evs : List Event) : (s.emit evs).pressedOut = s.pressedOut := rfl
@[simp] theorem State.emit_releasedOut (s : State) (evs : List Event) : (s.emit evs).releasedOut = s.releasedOut := rfl
@[simp] theorem State.emit_phase (s : State) (evs : List Event) : (s.emit evs).phase = s.phase := rfl
@[simp] theorem State.emit_stop (s : State) (evs : List Event) : (s.emit evs).stop = s.stop := rfl
@[simp] theorem State.emit_stopOp (s : State) (evs : List Event) : (s.emit evs).stopOp = s.stopOp := rfl
@[simp] theorem State.emit_stopPhase (s : State) (evs : List Event) : (s.emit evs).stopPhase = s.stopPhase := rfl
@[simp] theorem State.emit_mode (s : State) (evs : List Event) : (s.emit evs).mode = s.mode := rfl
@[simp] theorem State.emit_prog (s : State) (evs : List Event) : (s.emit evs).prog = s.prog := rfl
@[simp] theorem State.emit_params (s : State) (evs : List Event) : (s.emit evs).params = s.params := rfl
@[simp] theorem State.emit_env (s : State) (evs : List Event) : (s.emit evs).env = s.env := rfl

@[simp] theorem State.stopEntry_selAH (s : State) (c : StopCause) (op : OpWord) : (s.stopEntry c op).selAH = s.selAH := rfl
@[simp] theorem State.stopEntry_selIN (s : State) (c : StopCause) (op : OpWord) : (s.stopEntry c op).selIN = s.selIN := rfl
@[simp] theorem State.stopEntry_lat (s : State) (c : StopCause) (op : OpWord) : (s.stopEntry c op).lat = s.lat := rfl
@[simp] theorem State.stopEntry_clk (s : State) (c : StopCause) (op : OpWord) : (s.stopEntry c op).clk = s.clk := rfl
@[simp] theorem State.stopEntry_sr (s : State) (c : StopCause) (op : OpWord) : (s.stopEntry c op).sr = s.sr := rfl
@[simp] theorem State.stopEntry_srValid (s : State) (c : StopCause) (op : OpWord) : (s.stopEntry c op).srValid = s.srValid := rfl
@[simp] theorem State.stopEntry_k (s : State) (c : StopCause) (op : OpWord) : (s.stopEntry c op).k = s.k := rfl
@[simp] theorem State.stopEntry_raw (s : State) (c : StopCause) (op : OpWord) : (s.stopEntry c op).raw = s.raw := rfl
@[simp] theorem State.stopEntry_nread (s : State) (c : StopCause) (op : OpWord) : (s.stopEntry c op).nread = s.nread := rfl
@[simp] theorem State.stopEntry_lrow (s : State) (c : StopCause) (op : OpWord) : (s.stopEntry c op).lrow = s.lrow := rfl
@[simp] theorem State.stopEntry_snap (s : State) (c : StopCause) (op : OpWord) : (s.stopEntry c op).snap = s.snap := rfl
@[simp] theorem State.stopEntry_snapv (s : State) (c : StopCause) (op : OpWord) : (s.stopEntry c op).snapv = s.snapv := rfl
@[simp] theorem State.stopEntry_active (s : State) (c : StopCause) (op : OpWord) : (s.stopEntry c op).active = s.active := rfl
@[simp] theorem State.stopEntry_any (s : State) (c : StopCause) (op : OpWord) : (s.stopEntry c op).any = s.any := rfl
@[simp] theorem State.stopEntry_lastKey (s : State) (c : StopCause) (op : OpWord) : (s.stopEntry c op).lastKey = s.lastKey := rfl
@[simp] theorem State.stopEntry_out (s : State) (c : StopCause) (op : OpWord) : (s.stopEntry c op).out = s.out := rfl
@[simp] theorem State.stopEntry_pressedOut (s : State) (c : StopCause) (op : OpWord) : (s.stopEntry c op).pressedOut = s.pressedOut := rfl
@[simp] theorem State.stopEntry_releasedOut (s : State) (c : StopCause) (op : OpWord) : (s.stopEntry c op).releasedOut = s.releasedOut := rfl
@[simp] theorem State.stopEntry_phase (s : State) (c : StopCause) (op : OpWord) : (s.stopEntry c op).phase = s.phase := rfl
@[simp] theorem State.stopEntry_stop (s : State) (c : StopCause) (op : OpWord) : (s.stopEntry c op).stop = c.code := rfl
@[simp] theorem State.stopEntry_stopOp (s : State) (c : StopCause) (op : OpWord) : (s.stopEntry c op).stopOp = op := rfl
@[simp] theorem State.stopEntry_stopPhase (s : State) (c : StopCause) (op : OpWord) : (s.stopEntry c op).stopPhase = s.phase := rfl
@[simp] theorem State.stopEntry_mode (s : State) (c : StopCause) (op : OpWord) : (s.stopEntry c op).mode = s.mode := rfl
@[simp] theorem State.stopEntry_prog (s : State) (c : StopCause) (op : OpWord) : (s.stopEntry c op).prog = s.prog := rfl
@[simp] theorem State.stopEntry_params (s : State) (c : StopCause) (op : OpWord) : (s.stopEntry c op).params = s.params := rfl
@[simp] theorem State.stopEntry_env (s : State) (c : StopCause) (op : OpWord) : (s.stopEntry c op).env = s.env := rfl

@[simp] theorem State.advancePhase_selAH (s : State) : (s.advancePhase).selAH = s.selAH := rfl
@[simp] theorem State.advancePhase_selIN (s : State) : (s.advancePhase).selIN = s.selIN := rfl
@[simp] theorem State.advancePhase_lat (s : State) : (s.advancePhase).lat = s.lat := rfl
@[simp] theorem State.advancePhase_clk (s : State) : (s.advancePhase).clk = s.clk := rfl
@[simp] theorem State.advancePhase_sr (s : State) : (s.advancePhase).sr = s.sr := rfl
@[simp] theorem State.advancePhase_srValid (s : State) : (s.advancePhase).srValid = s.srValid := rfl
@[simp] theorem State.advancePhase_k (s : State) : (s.advancePhase).k = s.k := rfl
@[simp] theorem State.advancePhase_raw (s : State) : (s.advancePhase).raw = s.raw := rfl
@[simp] theorem State.advancePhase_nread (s : State) : (s.advancePhase).nread = s.nread := rfl
@[simp] theorem State.advancePhase_lrow (s : State) : (s.advancePhase).lrow = s.lrow := rfl
@[simp] theorem State.advancePhase_snap (s : State) : (s.advancePhase).snap = s.snap := rfl
@[simp] theorem State.advancePhase_snapv (s : State) : (s.advancePhase).snapv = s.snapv := rfl
@[simp] theorem State.advancePhase_active (s : State) : (s.advancePhase).active = s.active := rfl
@[simp] theorem State.advancePhase_any (s : State) : (s.advancePhase).any = s.any := rfl
@[simp] theorem State.advancePhase_lastKey (s : State) : (s.advancePhase).lastKey = s.lastKey := rfl
@[simp] theorem State.advancePhase_out (s : State) : (s.advancePhase).out = s.out := rfl
@[simp] theorem State.advancePhase_pressedOut (s : State) : (s.advancePhase).pressedOut = s.pressedOut := rfl
@[simp] theorem State.advancePhase_releasedOut (s : State) : (s.advancePhase).releasedOut = s.releasedOut := rfl
@[simp] theorem State.advancePhase_phase (s : State) : (s.advancePhase).phase = s.nextPhase := rfl
@[simp] theorem State.advancePhase_stop (s : State) : (s.advancePhase).stop = s.stop := rfl
@[simp] theorem State.advancePhase_stopOp (s : State) : (s.advancePhase).stopOp = s.stopOp := rfl
@[simp] theorem State.advancePhase_stopPhase (s : State) : (s.advancePhase).stopPhase = s.stopPhase := rfl
@[simp] theorem State.advancePhase_mode (s : State) : (s.advancePhase).mode = s.mode := rfl
@[simp] theorem State.advancePhase_prog (s : State) : (s.advancePhase).prog = s.prog := rfl
@[simp] theorem State.advancePhase_params (s : State) : (s.advancePhase).params = s.params := rfl
@[simp] theorem State.advancePhase_env (s : State) : (s.advancePhase).env = s.env := rfl

@[simp] theorem State.capture_selAH (s : State) (r : Row) : (s.capture r).selAH = s.selAH := rfl
@[simp] theorem State.capture_selIN (s : State) (r : Row) : (s.capture r).selIN = s.selIN := rfl
@[simp] theorem State.capture_lat (s : State) (r : Row) : (s.capture r).lat = s.lat := rfl
@[simp] theorem State.capture_clk (s : State) (r : Row) : (s.capture r).clk = s.clk := rfl
@[simp] theorem State.capture_sr (s : State) (r : Row) : (s.capture r).sr = s.env.rowPins r := rfl
@[simp] theorem State.capture_srValid (s : State) (r : Row) : (s.capture r).srValid = true := rfl
@[simp] theorem State.capture_k (s : State) (r : Row) : (s.capture r).k = 0 := rfl
@[simp] theorem State.capture_raw (s : State) (r : Row) : (s.capture r).raw = bitsOfByte (Config.unwrittenRaw s.env.count) := rfl
@[simp] theorem State.capture_nread (s : State) (r : Row) : (s.capture r).nread = 0 := rfl
@[simp] theorem State.capture_lrow (s : State) (r : Row) : (s.capture r).lrow = some r := rfl
@[simp] theorem State.capture_snap (s : State) (r : Row) : (s.capture r).snap = s.snap := rfl
@[simp] theorem State.capture_snapv (s : State) (r : Row) : (s.capture r).snapv = s.snapv := rfl
@[simp] theorem State.capture_active (s : State) (r : Row) : (s.capture r).active = s.active := rfl
@[simp] theorem State.capture_any (s : State) (r : Row) : (s.capture r).any = s.any := rfl
@[simp] theorem State.capture_lastKey (s : State) (r : Row) : (s.capture r).lastKey = s.lastKey := rfl
@[simp] theorem State.capture_out (s : State) (r : Row) : (s.capture r).out = s.out := rfl
@[simp] theorem State.capture_pressedOut (s : State) (r : Row) : (s.capture r).pressedOut = s.pressedOut := rfl
@[simp] theorem State.capture_releasedOut (s : State) (r : Row) : (s.capture r).releasedOut = s.releasedOut := rfl
@[simp] theorem State.capture_phase (s : State) (r : Row) : (s.capture r).phase = s.phase := rfl
@[simp] theorem State.capture_stop (s : State) (r : Row) : (s.capture r).stop = s.stop := rfl
@[simp] theorem State.capture_stopOp (s : State) (r : Row) : (s.capture r).stopOp = s.stopOp := rfl
@[simp] theorem State.capture_stopPhase (s : State) (r : Row) : (s.capture r).stopPhase = s.stopPhase := rfl
@[simp] theorem State.capture_mode (s : State) (r : Row) : (s.capture r).mode = s.mode := rfl
@[simp] theorem State.capture_prog (s : State) (r : Row) : (s.capture r).prog = s.prog := rfl
@[simp] theorem State.capture_params (s : State) (r : Row) : (s.capture r).params = s.params := rfl
@[simp] theorem State.capture_env (s : State) (r : Row) : (s.capture r).env = s.env.afterRowPins := rfl

@[simp] theorem State.readBit_selAH (s : State) : (s.readBit).selAH = s.selAH := rfl
@[simp] theorem State.readBit_selIN (s : State) : (s.readBit).selIN = s.selIN := rfl
@[simp] theorem State.readBit_lat (s : State) : (s.readBit).lat = s.lat := rfl
@[simp] theorem State.readBit_clk (s : State) : (s.readBit).clk = s.clk := rfl
@[simp] theorem State.readBit_sr (s : State) : (s.readBit).sr = s.sr := rfl
@[simp] theorem State.readBit_srValid (s : State) : (s.readBit).srValid = s.srValid := rfl
@[simp] theorem State.readBit_k (s : State) : (s.readBit).k = s.k := rfl
@[simp] theorem State.readBit_raw (s : State) : (s.readBit).raw = s.raw.setIfInBounds s.nread.toNat s.dataLevel.bit := rfl
@[simp] theorem State.readBit_nread (s : State) : (s.readBit).nread = s.nread + 1 := rfl
@[simp] theorem State.readBit_lrow (s : State) : (s.readBit).lrow = s.lrow := rfl
@[simp] theorem State.readBit_snap (s : State) : (s.readBit).snap = s.snap := rfl
@[simp] theorem State.readBit_snapv (s : State) : (s.readBit).snapv = s.snapv := rfl
@[simp] theorem State.readBit_active (s : State) : (s.readBit).active = s.active := rfl
@[simp] theorem State.readBit_any (s : State) : (s.readBit).any = s.any := rfl
@[simp] theorem State.readBit_lastKey (s : State) : (s.readBit).lastKey = s.lastKey := rfl
@[simp] theorem State.readBit_out (s : State) : (s.readBit).out = s.out := rfl
@[simp] theorem State.readBit_pressedOut (s : State) : (s.readBit).pressedOut = s.pressedOut := rfl
@[simp] theorem State.readBit_releasedOut (s : State) : (s.readBit).releasedOut = s.releasedOut := rfl
@[simp] theorem State.readBit_phase (s : State) : (s.readBit).phase = s.phase := rfl
@[simp] theorem State.readBit_stop (s : State) : (s.readBit).stop = s.stop := rfl
@[simp] theorem State.readBit_stopOp (s : State) : (s.readBit).stopOp = s.stopOp := rfl
@[simp] theorem State.readBit_stopPhase (s : State) : (s.readBit).stopPhase = s.stopPhase := rfl
@[simp] theorem State.readBit_mode (s : State) : (s.readBit).mode = s.mode := rfl
@[simp] theorem State.readBit_prog (s : State) : (s.readBit).prog = s.prog := rfl
@[simp] theorem State.readBit_params (s : State) : (s.readBit).params = s.params := rfl
@[simp] theorem State.readBit_env (s : State) : (s.readBit).env = s.env := rfl

@[simp] theorem State.shift_selAH (s : State) : (s.shift).selAH = s.selAH := rfl
@[simp] theorem State.shift_selIN (s : State) : (s.shift).selIN = s.selIN := rfl
@[simp] theorem State.shift_lat (s : State) : (s.shift).lat = s.lat := rfl
@[simp] theorem State.shift_clk (s : State) : (s.shift).clk = s.clk := rfl
@[simp] theorem State.shift_sr (s : State) : (s.shift).sr = BitVec.ofBool s.env.serialIn ++ s.sr.extractLsb' 1 7 := rfl
@[simp] theorem State.shift_srValid (s : State) : (s.shift).srValid = s.srValid := rfl
@[simp] theorem State.shift_k (s : State) : (s.shift).k = s.k + 1 := rfl
@[simp] theorem State.shift_raw (s : State) : (s.shift).raw = s.raw := rfl
@[simp] theorem State.shift_nread (s : State) : (s.shift).nread = s.nread := rfl
@[simp] theorem State.shift_lrow (s : State) : (s.shift).lrow = s.lrow := rfl
@[simp] theorem State.shift_snap (s : State) : (s.shift).snap = s.snap := rfl
@[simp] theorem State.shift_snapv (s : State) : (s.shift).snapv = s.snapv := rfl
@[simp] theorem State.shift_active (s : State) : (s.shift).active = s.active := rfl
@[simp] theorem State.shift_any (s : State) : (s.shift).any = s.any := rfl
@[simp] theorem State.shift_lastKey (s : State) : (s.shift).lastKey = s.lastKey := rfl
@[simp] theorem State.shift_out (s : State) : (s.shift).out = s.out := rfl
@[simp] theorem State.shift_pressedOut (s : State) : (s.shift).pressedOut = s.pressedOut := rfl
@[simp] theorem State.shift_releasedOut (s : State) : (s.shift).releasedOut = s.releasedOut := rfl
@[simp] theorem State.shift_phase (s : State) : (s.shift).phase = s.phase := rfl
@[simp] theorem State.shift_stop (s : State) : (s.shift).stop = s.stop := rfl
@[simp] theorem State.shift_stopOp (s : State) : (s.shift).stopOp = s.stopOp := rfl
@[simp] theorem State.shift_stopPhase (s : State) : (s.shift).stopPhase = s.stopPhase := rfl
@[simp] theorem State.shift_mode (s : State) : (s.shift).mode = s.mode := rfl
@[simp] theorem State.shift_prog (s : State) : (s.shift).prog = s.prog := rfl
@[simp] theorem State.shift_params (s : State) : (s.shift).params = s.params := rfl
@[simp] theorem State.shift_env (s : State) : (s.shift).env = s.env.afterSerialIn := rfl

@[simp] theorem State.recordSlice_selAH (s : State) (r : Row) : (s.recordSlice r).selAH = s.selAH := rfl
@[simp] theorem State.recordSlice_selIN (s : State) (r : Row) : (s.recordSlice r).selIN = s.selIN := rfl
@[simp] theorem State.recordSlice_lat (s : State) (r : Row) : (s.recordSlice r).lat = s.lat := rfl
@[simp] theorem State.recordSlice_clk (s : State) (r : Row) : (s.recordSlice r).clk = s.clk := rfl
@[simp] theorem State.recordSlice_sr (s : State) (r : Row) : (s.recordSlice r).sr = s.sr := rfl
@[simp] theorem State.recordSlice_srValid (s : State) (r : Row) : (s.recordSlice r).srValid = s.srValid := rfl
@[simp] theorem State.recordSlice_k (s : State) (r : Row) : (s.recordSlice r).k = s.k := rfl
@[simp] theorem State.recordSlice_raw (s : State) (r : Row) : (s.recordSlice r).raw = s.raw := rfl
@[simp] theorem State.recordSlice_nread (s : State) (r : Row) : (s.recordSlice r).nread = s.nread := rfl
@[simp] theorem State.recordSlice_lrow (s : State) (r : Row) : (s.recordSlice r).lrow = s.lrow := rfl
@[simp] theorem State.recordSlice_snap (s : State) (r : Row) : (s.recordSlice r).snap = writeSlice s.snap r (pressed8 r (rawByte s.raw)) := rfl
@[simp] theorem State.recordSlice_snapv (s : State) (r : Row) : (s.recordSlice r).snapv = s.snapv ||| (0b001#3 <<< rowIndex r) := rfl
@[simp] theorem State.recordSlice_active (s : State) (r : Row) : (s.recordSlice r).active = s.active := rfl
@[simp] theorem State.recordSlice_any (s : State) (r : Row) : (s.recordSlice r).any = s.any := rfl
@[simp] theorem State.recordSlice_lastKey (s : State) (r : Row) : (s.recordSlice r).lastKey = s.lastKey := rfl
@[simp] theorem State.recordSlice_out (s : State) (r : Row) : (s.recordSlice r).out = s.out := rfl
@[simp] theorem State.recordSlice_pressedOut (s : State) (r : Row) : (s.recordSlice r).pressedOut = s.pressedOut := rfl
@[simp] theorem State.recordSlice_releasedOut (s : State) (r : Row) : (s.recordSlice r).releasedOut = s.releasedOut := rfl
@[simp] theorem State.recordSlice_phase (s : State) (r : Row) : (s.recordSlice r).phase = s.phase := rfl
@[simp] theorem State.recordSlice_stop (s : State) (r : Row) : (s.recordSlice r).stop = s.stop := rfl
@[simp] theorem State.recordSlice_stopOp (s : State) (r : Row) : (s.recordSlice r).stopOp = s.stopOp := rfl
@[simp] theorem State.recordSlice_stopPhase (s : State) (r : Row) : (s.recordSlice r).stopPhase = s.stopPhase := rfl
@[simp] theorem State.recordSlice_mode (s : State) (r : Row) : (s.recordSlice r).mode = s.mode := rfl
@[simp] theorem State.recordSlice_prog (s : State) (r : Row) : (s.recordSlice r).prog = s.prog := rfl
@[simp] theorem State.recordSlice_params (s : State) (r : Row) : (s.recordSlice r).params = s.params := rfl
@[simp] theorem State.recordSlice_env (s : State) (r : Row) : (s.recordSlice r).env = s.env := rfl

@[simp] theorem State.pressNew_selAH (s : State) : (s.pressNew).selAH = s.selAH := rfl
@[simp] theorem State.pressNew_selIN (s : State) : (s.pressNew).selIN = s.selIN := rfl
@[simp] theorem State.pressNew_lat (s : State) : (s.pressNew).lat = s.lat := rfl
@[simp] theorem State.pressNew_clk (s : State) : (s.pressNew).clk = s.clk := rfl
@[simp] theorem State.pressNew_sr (s : State) : (s.pressNew).sr = s.sr := rfl
@[simp] theorem State.pressNew_srValid (s : State) : (s.pressNew).srValid = s.srValid := rfl
@[simp] theorem State.pressNew_k (s : State) : (s.pressNew).k = s.k := rfl
@[simp] theorem State.pressNew_raw (s : State) : (s.pressNew).raw = s.raw := rfl
@[simp] theorem State.pressNew_nread (s : State) : (s.pressNew).nread = s.nread := rfl
@[simp] theorem State.pressNew_lrow (s : State) : (s.pressNew).lrow = s.lrow := rfl
@[simp] theorem State.pressNew_snap (s : State) : (s.pressNew).snap = s.snap := rfl
@[simp] theorem State.pressNew_snapv (s : State) : (s.pressNew).snapv = s.snapv := rfl
@[simp] theorem State.pressNew_active (s : State) : (s.pressNew).active = s.active ||| s.snap := rfl
@[simp] theorem State.pressNew_any (s : State) : (s.pressNew).any = anyAfter s.snap := rfl
@[simp] theorem State.pressNew_lastKey (s : State) : (s.pressNew).lastKey = s.newKeys.getLast?.or s.lastKey := rfl
@[simp] theorem State.pressNew_out (s : State) : (s.pressNew).out = s.out ++ s.newKeys.map Event.press := rfl
@[simp] theorem State.pressNew_pressedOut (s : State) : (s.pressNew).pressedOut = s.newButtons := rfl
@[simp] theorem State.pressNew_releasedOut (s : State) : (s.pressNew).releasedOut = 0 := rfl
@[simp] theorem State.pressNew_phase (s : State) : (s.pressNew).phase = s.phase := rfl
@[simp] theorem State.pressNew_stop (s : State) : (s.pressNew).stop = s.stop := rfl
@[simp] theorem State.pressNew_stopOp (s : State) : (s.pressNew).stopOp = s.stopOp := rfl
@[simp] theorem State.pressNew_stopPhase (s : State) : (s.pressNew).stopPhase = s.stopPhase := rfl
@[simp] theorem State.pressNew_mode (s : State) : (s.pressNew).mode = s.mode := rfl
@[simp] theorem State.pressNew_prog (s : State) : (s.pressNew).prog = s.prog := rfl
@[simp] theorem State.pressNew_params (s : State) : (s.pressNew).params = s.params := rfl
@[simp] theorem State.pressNew_env (s : State) : (s.pressNew).env = s.env.afterPressOrder s.params.pressOrder := rfl

@[simp] theorem State.releaseActive_selAH (s : State) : (s.releaseActive).selAH = s.selAH := rfl
@[simp] theorem State.releaseActive_selIN (s : State) : (s.releaseActive).selIN = s.selIN := rfl
@[simp] theorem State.releaseActive_lat (s : State) : (s.releaseActive).lat = s.lat := rfl
@[simp] theorem State.releaseActive_clk (s : State) : (s.releaseActive).clk = s.clk := rfl
@[simp] theorem State.releaseActive_sr (s : State) : (s.releaseActive).sr = s.sr := rfl
@[simp] theorem State.releaseActive_srValid (s : State) : (s.releaseActive).srValid = s.srValid := rfl
@[simp] theorem State.releaseActive_k (s : State) : (s.releaseActive).k = s.k := rfl
@[simp] theorem State.releaseActive_raw (s : State) : (s.releaseActive).raw = s.raw := rfl
@[simp] theorem State.releaseActive_nread (s : State) : (s.releaseActive).nread = s.nread := rfl
@[simp] theorem State.releaseActive_lrow (s : State) : (s.releaseActive).lrow = s.lrow := rfl
@[simp] theorem State.releaseActive_snap (s : State) : (s.releaseActive).snap = s.snap := rfl
@[simp] theorem State.releaseActive_snapv (s : State) : (s.releaseActive).snapv = s.snapv := rfl
@[simp] theorem State.releaseActive_active (s : State) : (s.releaseActive).active = 0 := rfl
@[simp] theorem State.releaseActive_any (s : State) : (s.releaseActive).any = anyAfter s.snap := rfl
@[simp] theorem State.releaseActive_lastKey (s : State) : (s.releaseActive).lastKey = none := rfl
@[simp] theorem State.releaseActive_out (s : State) : (s.releaseActive).out = s.out ++ s.releaseEvents := rfl
@[simp] theorem State.releaseActive_pressedOut (s : State) : (s.releaseActive).pressedOut = 0 := rfl
@[simp] theorem State.releaseActive_releasedOut (s : State) : (s.releaseActive).releasedOut = s.active := rfl
@[simp] theorem State.releaseActive_phase (s : State) : (s.releaseActive).phase = s.phase := rfl
@[simp] theorem State.releaseActive_stop (s : State) : (s.releaseActive).stop = s.stop := rfl
@[simp] theorem State.releaseActive_stopOp (s : State) : (s.releaseActive).stopOp = s.stopOp := rfl
@[simp] theorem State.releaseActive_stopPhase (s : State) : (s.releaseActive).stopPhase = s.stopPhase := rfl
@[simp] theorem State.releaseActive_mode (s : State) : (s.releaseActive).mode = s.mode := rfl
@[simp] theorem State.releaseActive_prog (s : State) : (s.releaseActive).prog = s.prog := rfl
@[simp] theorem State.releaseActive_params (s : State) : (s.releaseActive).params = s.params := rfl
@[simp] theorem State.releaseActive_env (s : State) : (s.releaseActive).env = s.env := rfl

@[simp] theorem State.dropSnapshot_selAH (s : State) : (s.dropSnapshot).selAH = s.selAH := rfl
@[simp] theorem State.dropSnapshot_selIN (s : State) : (s.dropSnapshot).selIN = s.selIN := rfl
@[simp] theorem State.dropSnapshot_lat (s : State) : (s.dropSnapshot).lat = s.lat := rfl
@[simp] theorem State.dropSnapshot_clk (s : State) : (s.dropSnapshot).clk = s.clk := rfl
@[simp] theorem State.dropSnapshot_sr (s : State) : (s.dropSnapshot).sr = s.sr := rfl
@[simp] theorem State.dropSnapshot_srValid (s : State) : (s.dropSnapshot).srValid = s.srValid := rfl
@[simp] theorem State.dropSnapshot_k (s : State) : (s.dropSnapshot).k = s.k := rfl
@[simp] theorem State.dropSnapshot_raw (s : State) : (s.dropSnapshot).raw = s.raw := rfl
@[simp] theorem State.dropSnapshot_nread (s : State) : (s.dropSnapshot).nread = s.nread := rfl
@[simp] theorem State.dropSnapshot_lrow (s : State) : (s.dropSnapshot).lrow = s.lrow := rfl
@[simp] theorem State.dropSnapshot_snap (s : State) : (s.dropSnapshot).snap = 0 := rfl
@[simp] theorem State.dropSnapshot_snapv (s : State) : (s.dropSnapshot).snapv = 0b000 := rfl
@[simp] theorem State.dropSnapshot_active (s : State) : (s.dropSnapshot).active = s.active := rfl
@[simp] theorem State.dropSnapshot_any (s : State) : (s.dropSnapshot).any = s.any := rfl
@[simp] theorem State.dropSnapshot_lastKey (s : State) : (s.dropSnapshot).lastKey = s.lastKey := rfl
@[simp] theorem State.dropSnapshot_out (s : State) : (s.dropSnapshot).out = s.out := rfl
@[simp] theorem State.dropSnapshot_pressedOut (s : State) : (s.dropSnapshot).pressedOut = s.pressedOut := rfl
@[simp] theorem State.dropSnapshot_releasedOut (s : State) : (s.dropSnapshot).releasedOut = s.releasedOut := rfl
@[simp] theorem State.dropSnapshot_phase (s : State) : (s.dropSnapshot).phase = s.phase := rfl
@[simp] theorem State.dropSnapshot_stop (s : State) : (s.dropSnapshot).stop = s.stop := rfl
@[simp] theorem State.dropSnapshot_stopOp (s : State) : (s.dropSnapshot).stopOp = s.stopOp := rfl
@[simp] theorem State.dropSnapshot_stopPhase (s : State) : (s.dropSnapshot).stopPhase = s.stopPhase := rfl
@[simp] theorem State.dropSnapshot_mode (s : State) : (s.dropSnapshot).mode = s.mode := rfl
@[simp] theorem State.dropSnapshot_prog (s : State) : (s.dropSnapshot).prog = s.prog := rfl
@[simp] theorem State.dropSnapshot_params (s : State) : (s.dropSnapshot).params = s.params := rfl
@[simp] theorem State.dropSnapshot_env (s : State) : (s.dropSnapshot).env = s.env := rfl

@[simp] theorem State.withSnapshot_selAH (s : State) (v : ButtonVec) : (s.withSnapshot v).selAH = s.selAH := rfl
@[simp] theorem State.withSnapshot_selIN (s : State) (v : ButtonVec) : (s.withSnapshot v).selIN = s.selIN := rfl
@[simp] theorem State.withSnapshot_lat (s : State) (v : ButtonVec) : (s.withSnapshot v).lat = s.lat := rfl
@[simp] theorem State.withSnapshot_clk (s : State) (v : ButtonVec) : (s.withSnapshot v).clk = s.clk := rfl
@[simp] theorem State.withSnapshot_sr (s : State) (v : ButtonVec) : (s.withSnapshot v).sr = s.sr := rfl
@[simp] theorem State.withSnapshot_srValid (s : State) (v : ButtonVec) : (s.withSnapshot v).srValid = s.srValid := rfl
@[simp] theorem State.withSnapshot_k (s : State) (v : ButtonVec) : (s.withSnapshot v).k = s.k := rfl
@[simp] theorem State.withSnapshot_raw (s : State) (v : ButtonVec) : (s.withSnapshot v).raw = s.raw := rfl
@[simp] theorem State.withSnapshot_nread (s : State) (v : ButtonVec) : (s.withSnapshot v).nread = s.nread := rfl
@[simp] theorem State.withSnapshot_lrow (s : State) (v : ButtonVec) : (s.withSnapshot v).lrow = s.lrow := rfl
@[simp] theorem State.withSnapshot_snap (s : State) (v : ButtonVec) : (s.withSnapshot v).snap = v := rfl
@[simp] theorem State.withSnapshot_snapv (s : State) (v : ButtonVec) : (s.withSnapshot v).snapv = 0b111 := rfl
@[simp] theorem State.withSnapshot_active (s : State) (v : ButtonVec) : (s.withSnapshot v).active = s.active := rfl
@[simp] theorem State.withSnapshot_any (s : State) (v : ButtonVec) : (s.withSnapshot v).any = s.any := rfl
@[simp] theorem State.withSnapshot_lastKey (s : State) (v : ButtonVec) : (s.withSnapshot v).lastKey = s.lastKey := rfl
@[simp] theorem State.withSnapshot_out (s : State) (v : ButtonVec) : (s.withSnapshot v).out = s.out := rfl
@[simp] theorem State.withSnapshot_pressedOut (s : State) (v : ButtonVec) : (s.withSnapshot v).pressedOut = s.pressedOut := rfl
@[simp] theorem State.withSnapshot_releasedOut (s : State) (v : ButtonVec) : (s.withSnapshot v).releasedOut = s.releasedOut := rfl
@[simp] theorem State.withSnapshot_phase (s : State) (v : ButtonVec) : (s.withSnapshot v).phase = s.phase := rfl
@[simp] theorem State.withSnapshot_stop (s : State) (v : ButtonVec) : (s.withSnapshot v).stop = s.stop := rfl
@[simp] theorem State.withSnapshot_stopOp (s : State) (v : ButtonVec) : (s.withSnapshot v).stopOp = s.stopOp := rfl
@[simp] theorem State.withSnapshot_stopPhase (s : State) (v : ButtonVec) : (s.withSnapshot v).stopPhase = s.stopPhase := rfl
@[simp] theorem State.withSnapshot_mode (s : State) (v : ButtonVec) : (s.withSnapshot v).mode = s.mode := rfl
@[simp] theorem State.withSnapshot_prog (s : State) (v : ButtonVec) : (s.withSnapshot v).prog = s.prog := rfl
@[simp] theorem State.withSnapshot_params (s : State) (v : ButtonVec) : (s.withSnapshot v).params = s.params := rfl
@[simp] theorem State.withSnapshot_env (s : State) (v : ButtonVec) : (s.withSnapshot v).env = s.env := rfl

end Sys2Proof.Machine
end

