-- ==== Sys2Proof/Laws/Ops.lean ====
section
/-! SUPPORT. What the shared operations do, said once: sequencing of micro-operations, the outcome of an operation,
the drives of SELECT, and PHASE. -/

namespace Sys2Proof.Machine

@[simp] theorem MicroResult.andThen_done (s : State) (f : State → MicroResult) :
    (MicroResult.done s).andThen f = f s := rfl

@[simp] theorem MicroResult.andThen_stopped (s : State) (f : State → MicroResult) :
    (MicroResult.stopped s).andThen f = .stopped s := rfl

@[simp] theorem MicroResult.andThen_fault (e : Fault) (f : State → MicroResult) :
    (MicroResult.fault e).andThen f = .fault e := rfl

@[simp] theorem MicroResult.finish_done (s : State) : (MicroResult.done s).finish = .next s.advancePhase := rfl

@[simp] theorem MicroResult.finish_stopped (s : State) : (MicroResult.stopped s).finish = .next s := rfl

@[simp] theorem MicroResult.finish_fault (e : Fault) : (MicroResult.fault e).finish = .fault e := rfl

/-- An operation's next state is its completed state with PHASE moved on, or its stopped state. -/
theorem MicroResult.finish_eq_next {m : MicroResult} {t : State} :
    m.finish = .next t ↔ (∃ s, m = .done s ∧ t = s.advancePhase) ∨ m = .stopped t := by
  cases m <;> simp [eq_comm]

/-- What holds of the state a micro-operation completes in and of the state it stops in. -/
def MicroResult.Ends (completes stops : State → Prop) : MicroResult → Prop
  | .done s => completes s
  | .stopped s => stops s
  | .fault _ => True

/-- Two micro-operations in sequence: what the second keeps of the first's result holds of both. -/
theorem MicroResult.Ends.andThen {p q : State → Prop} {r : State → Prop} {m : MicroResult}
    {f : State → MicroResult} (hm : m.Ends p r) (hf : ∀ s, p s → (f s).Ends q r) : (m.andThen f).Ends q r := by
  cases m with
  | done s => exact hf s hm
  | stopped s => exact hm
  | fault e => trivial

/-- A repeated micro-operation keeps what each of its runs keeps. -/
theorem MicroResult.Ends.repeatMicro {p r : State → Prop} {f : State → MicroResult} (n : Nat) {s : State}
    (hs : p s) (hf : ∀ s, p s → (f s).Ends p r) : (repeatMicro n f s).Ends p r := by
  induction n generalizing s with
  | zero => exact hs
  | succ n ih => exact (hf s hs).andThen fun t ht => ih ht

/-- What an operation's micro-operation establishes holds of its next state. -/
theorem MicroResult.Ends.of_finish {p q : State → Prop} {m : MicroResult} (h : m.Ends p q) {t : State}
    (ht : m.finish = .next t) : (∃ s, p s ∧ t = s.advancePhase) ∨ q t := by
  obtain ⟨s, rfl, rfl⟩ | rfl := MicroResult.finish_eq_next.1 ht
  · exact .inl ⟨s, h, rfl⟩
  · exact .inr h

/-- The drives of `SELECT r` leave the select lines at the row's levels and touch nothing else. -/
theorem State.driveAll_selectDrives (s : State) (r : Row) :
    s.driveAll (selectDrives r) = { s with selAH := r.levels.1, selIN := r.levels.2 } := by
  cases r <;> rfl

theorem State.pulse_lat (s : State) : s.pulse .lat = { s with lat := .low } := rfl

theorem State.pulse_clk (s : State) : s.pulse .clk = { s with clk := .low } := rfl

theorem State.nextPhase_autonomous {s : State} (h : s.mode = .autonomous) : s.nextPhase = (s.phase + 1) % 56 := by
  simp [State.nextPhase, h]

theorem State.nextPhase_driven {s : State} (h : s.mode = .driven) : s.nextPhase = s.phase + 1 := by
  simp [State.nextPhase, h]

/-- PHASE's next value depends on the mode and on PHASE alone. -/
theorem State.nextPhase_congr {s t : State} (hm : t.mode = s.mode) (hp : t.phase = s.phase) :
    t.nextPhase = s.nextPhase := by
  simp [State.nextPhase, hm, hp]

@[simp] theorem State.dataLevel_of_valid {s : State} (h : s.srValid = true) :
    s.dataLevel = Level.ofBit (s.sr.getLsbD 0) := by
  simp [State.dataLevel, h]

@[simp] theorem Level.bit_ofBit (b : Bool) : (Level.ofBit b).bit = b := by cases b <;> rfl

@[simp] theorem selRow_levels (r : Row) : selRow r.levels.1 r.levels.2 = some r := by cases r <;> rfl

/-- A selected row's levels are those of the pair. -/
theorem selRow_eq_some {a n : Level} {r : Row} : selRow a n = some r ↔ r.levels = (a, n) := by
  cases a <;> cases n <;> cases r <;> decide

theorem selRow_eq_none {a n : Level} : selRow a n = none ↔ a = .low ∧ n = .low := by
  cases a <;> cases n <;> decide

/-- A read is in progress exactly when NREAD is 1 to 7. -/
theorem State.readInProgress_iff {s : State} :
    s.readInProgress = true ↔ 1 ≤ s.nread.toNat ∧ s.nread.toNat ≤ 7 := by
  simp [State.readInProgress]

theorem State.readInProgress_eq_false {s : State} :
    s.readInProgress = false ↔ ¬(1 ≤ s.nread.toNat ∧ s.nread.toNat ≤ 7) := by
  rw [← State.readInProgress_iff, Bool.not_eq_true]

end Sys2Proof.Machine
end

