-- ==== Sys2Proof/Laws/Operands.lean ====
section
/-! SUPPORT. The laws of the operands: the bits of RAW, a row's slice of a button vector, and the order of presses. -/

namespace Sys2Proof.Machine

/-- The bits of an explicit RAW, over all 256 of them. -/
theorem rawByte_literal_getLsbD : ∀ a b c d e f g i : Bool, ∀ j : Fin 8,
    (rawByte #v[a, b, c, d, e, f, g, i]).getLsbD j = #v[a, b, c, d, e, f, g, i][j] := by
  decide +kernel

/-- Eight bits as a number hold each bit at its place (R46). -/
theorem rawByte_getLsbD (v : Vector Bool 8) (j : Nat) (h : j < 8) : (rawByte v).getLsbD j = v[j] := by
  obtain ⟨⟨l⟩, hl⟩ := v
  match l, hl with
  | [a, b, c, d, e, f, g, i], _ => exact rawByte_literal_getLsbD a b c d e f g i ⟨j, h⟩

theorem bitsOfByte_getElem (b : Byte) (j : Nat) (h : j < 8) : (bitsOfByte b)[j] = b.getLsbD j := by
  match j, h with
  | 0, _ | 1, _ | 2, _ | 3, _ | 4, _ | 5, _ | 6, _ | 7, _ => rfl

@[simp] theorem rawByte_bitsOfByte (b : Byte) : rawByte (bitsOfByte b) = b := by
  apply BitVec.eq_of_getLsbD_eq
  intro j hj
  rw [rawByte_getLsbD _ j hj, bitsOfByte_getElem]

/-- Bit `b` of a row's mask moved to its slice. -/
theorem slice_getLsbD (x : Byte) (n b : Nat) (hb : b < 24) :
    (x.zeroExtend 24 <<< n).getLsbD b = (decide (n ≤ b) && x.getLsbD (b - n)) := by
  simp only [BitVec.getLsbD_shiftLeft, BitVec.truncate_eq_setWidth, BitVec.getLsbD_setWidth]
  by_cases h : n ≤ b
  · have h1 : ¬b < n := by omega
    have h2 : b - n < 24 := by omega
    simp [hb, h, h1, h2]
  · simp [h]

theorem mem_buttonsOf {v : ButtonVec} {b : Nat} : b ∈ buttonsOf v ↔ v.getLsbD b = true := by
  simp only [buttonsOf, List.mem_filter, List.mem_range, and_iff_right_iff_imp]
  intro h
  by_contra hb
  rw [BitVec.getLsbD_of_ge v b (by omega)] at h
  exact Bool.noConfusion h

theorem buttonsOf_nodup (v : ButtonVec) : (buttonsOf v).Nodup := List.nodup_range.filter _

theorem buttonsOf_eq_nil {v : ButtonVec} : buttonsOf v = [] ↔ v = 0 := by
  constructor
  · intro h
    apply BitVec.eq_of_getLsbD_eq
    intro i _
    have hi : ¬v.getLsbD i = true := by simp [← mem_buttonsOf, h]
    simpa using hi
  · rintro rfl
    decide

/-- Whatever is picked, a full run of picks is a permutation. -/
theorem permuteBy_perm (pick : Nat → Nat) (l : List Nat) : (permuteBy pick l.length l).Perm l := by
  generalize hn : l.length = n
  induction n generalizing l with
  | zero => rw [List.length_eq_zero_iff.1 hn]; exact .refl _
  | succ n ih =>
    have hlt : pick n % l.length < l.length := Nat.mod_lt _ (by omega)
    have hmem : l[pick n % l.length] ∈ l := List.getElem_mem hlt
    simp only [permuteBy, List.getElem?_eq_getElem hlt]
    exact ((ih _ (by rw [List.length_erase_of_mem hmem]; omega)).cons _).trans (List.perm_cons_erase hmem).symm

/-- Under either PRESS_ORDER the presses are those of the new buttons (R90). -/
theorem pressSequence_perm (o : PressOrder) (c : Nat) (v : ButtonVec) : (pressSequence o c v).Perm (buttonsOf v) := by
  cases o with
  | ascending => exact .refl _
  | any => exact permuteBy_perm _ _

@[simp] theorem pressSequence_zero (o : PressOrder) (c : Nat) : pressSequence o c 0#24 = [] :=
  List.perm_nil.1 (buttonsOf_eq_nil.2 rfl ▸ pressSequence_perm o c 0)

theorem pressSequence_eq_nil {o : PressOrder} {c : Nat} {v : ButtonVec} : pressSequence o c v = [] ↔ v = 0 := by
  rw [← buttonsOf_eq_nil]
  have h := pressSequence_perm o c v
  constructor
  · intro e; exact List.nil_perm.1 (e ▸ h)
  · intro e; exact List.perm_nil.1 (e ▸ h)

end Sys2Proof.Machine
end

