-- ==== Sys2Proof/Laws/Press.lean ====
section
/-! SUPPORT. What DECODE, ADVANCE and GUARD do, said once per micro-operation. -/

namespace Sys2Proof.Machine

theorem microDecode_of_incomplete {s : State} (h : s.nread ≠ 8) :
    microDecode s = .stopped (s.stopEntry .decodeIncomplete (encode .decode)) :=
  if_pos h

theorem microDecode_of_disordered {s : State} {r : Row} (h : s.nread = 8) (hr : s.lrow = some r)
    (ho : s.snapv ≠ decodedBefore r) :
    microDecode s = .stopped (s.stopEntry .decodeOrder (encode .decode)) := by
  rw [microDecode, if_neg (by simp [h]), hr]
  exact if_pos ho

theorem microDecode_of_ready {s : State} {r : Row} (h : s.nread = 8) (hr : s.lrow = some r)
    (ho : s.snapv = decodedBefore r) : microDecode s = .done (s.recordSlice r) := by
  rw [microDecode, if_neg (by simp [h]), hr]
  exact if_neg (by simp [ho])

theorem microAdvance_of_incomplete {s : State} (h : s.snapv ≠ 0b111) :
    microAdvance s = .stopped (s.stopEntry .advanceIncomplete (encode .advance)) :=
  if_pos h

theorem microAdvance_of_complete {s : State} (h : s.snapv = 0b111) : microAdvance s = .done s.transition :=
  if_neg (by simp [h])

theorem State.transition_of_pressed {s : State} (h : s.snap ≠ 0) : s.transition = s.pressNew.dropSnapshot := by
  rw [State.transition, if_pos h]

theorem State.transition_of_empty {s : State} (h : s.snap = 0) : s.transition = s.releaseActive.dropSnapshot := by
  rw [State.transition, if_neg (by simp [h])]

theorem microGuard_eq (s : State) : microGuard s = .done (s.emit (if s.any then [Event.delay .guardDelay] else [])) :=
  rfl

@[simp] theorem anyAfter_eq_true {v : ButtonVec} : anyAfter v = true ↔ v ≠ 0 := by simp [anyAfter]

/-- SNAPV once row `r` is decoded in its turn (R85). -/
theorem snapv_after_row (r : Row) : decodedBefore r ||| (0b001#3 <<< rowIndex r) =
    match r with
    | .AH => 0b001
    | .IN => 0b011
    | .CMD => 0b111 := by
  cases r <;> decide

/-- A bit of a written slice: the new byte's inside it, the old one outside (R85). -/
theorem writeSlice_getLsbD (v : ButtonVec) (r : Row) (x : Byte) (b : Nat) (hb : b < 24) :
    (writeSlice v r x).getLsbD b =
      if 8 * rowIndex r ≤ b ∧ b < 8 * rowIndex r + 8 then x.getLsbD (b - 8 * rowIndex r) else v.getLsbD b := by
  have mask : (0x0000FF#24 <<< (8 * rowIndex r)).getLsbD b = decide (8 * rowIndex r ≤ b ∧ b < 8 * rowIndex r + 8) := by
    have key : ∀ q : Row, ∀ c : Fin 24,
        (0x0000FF#24 <<< (8 * rowIndex q)).getLsbD c = decide (8 * rowIndex q ≤ c.val ∧ c.val < 8 * rowIndex q + 8) := by
      intro q; cases q <;> decide
    exact key r ⟨b, hb⟩
  rw [writeSlice, BitVec.getLsbD_or, BitVec.getLsbD_and, BitVec.getLsbD_not, slice_getLsbD _ _ _ hb, mask]
  by_cases h1 : 8 * rowIndex r ≤ b
  · by_cases h2 : b < 8 * rowIndex r + 8
    · simp [h1, h2]
    · have : x.getLsbD (b - 8 * rowIndex r) = false := BitVec.getLsbD_of_ge _ _ (by omega)
      simp [h2, hb, this]
  · simp [h1, hb]

theorem sliceOf_getLsbD (v : ButtonVec) (r : Row) (p : Nat) (hp : p < 8) :
    (sliceOf v r).getLsbD p = v.getLsbD (8 * rowIndex r + p) := by
  simp [sliceOf, hp]

theorem rowIndex_le (r : Row) : rowIndex r ≤ 2 := by cases r <;> decide

theorem rowIndex_injective {q r : Row} (h : rowIndex q = rowIndex r) : q = r := by
  cases q <;> cases r <;> first | rfl | exact absurd h (by decide)

@[simp] theorem sliceOf_writeSlice_same (v : ButtonVec) (r : Row) (x : Byte) : sliceOf (writeSlice v r x) r = x := by
  apply BitVec.eq_of_getLsbD_eq
  intro p hp
  have := rowIndex_le r
  rw [sliceOf_getLsbD _ _ _ hp, writeSlice_getLsbD _ _ _ _ (by omega)]
  simp [hp]

theorem sliceOf_writeSlice_other (v : ButtonVec) {q r : Row} (x : Byte) (h : q ≠ r) :
    sliceOf (writeSlice v r x) q = sliceOf v q := by
  apply BitVec.eq_of_getLsbD_eq
  intro p hp
  have := rowIndex_le q
  have hne : rowIndex q ≠ rowIndex r := fun e => h (rowIndex_injective e)
  rw [sliceOf_getLsbD _ _ _ hp, sliceOf_getLsbD _ _ _ hp, writeSlice_getLsbD _ _ _ _ (by omega), if_neg (by omega)]

/-- A button vector is its three slices. -/
theorem buttonVec_ext {v w : ButtonVec} (h : ∀ r, sliceOf v r = sliceOf w r) : v = w := by
  apply BitVec.eq_of_getLsbD_eq
  intro b hb
  have split : ∃ r : Row, ∃ p, p < 8 ∧ b = 8 * rowIndex r + p := by
    by_cases h8 : b < 8
    · exact ⟨.AH, b, h8, by simp [rowIndex]⟩
    · by_cases h16 : b < 16
      · exact ⟨.IN, b - 8, by omega, by simp [rowIndex]; omega⟩
      · exact ⟨.CMD, b - 16, by omega, by simp [rowIndex]; omega⟩
  obtain ⟨r, p, hp, rfl⟩ := split
  rw [← sliceOf_getLsbD _ _ _ hp, ← sliceOf_getLsbD _ _ _ hp, h r]

theorem sliceOf_or (v w : ButtonVec) (r : Row) : sliceOf (v ||| w) r = sliceOf v r ||| sliceOf w r := by
  apply BitVec.eq_of_getLsbD_eq
  intro p hp
  rw [BitVec.getLsbD_or]
  simp only [sliceOf_getLsbD _ _ _ hp, BitVec.getLsbD_or]

/-- A decoded row fills its own slice and no other (R84). -/
theorem sliceOf_decodeRow (q r : Row) (bits : Byte) :
    sliceOf (decodeRow r bits) q = if q = r then pressed8 r bits else 0 := by
  apply BitVec.eq_of_getLsbD_eq
  intro p hp
  have := rowIndex_le q
  rw [sliceOf_getLsbD _ _ _ hp, decodeRow, slice_getLsbD _ _ _ (by omega)]
  by_cases h : q = r
  · subst h; simp
  · have hne : rowIndex q ≠ rowIndex r := fun e => h (rowIndex_injective e)
    rw [if_neg h]
    by_cases hle : 8 * rowIndex r ≤ 8 * rowIndex q + p
    · rw [BitVec.getLsbD_of_ge (pressed8 r bits) _ (by omega)]; simp
    · simp [hle]

end Sys2Proof.Machine
end

