-- ==== Sys2Proof/Laws/RowMux.lean ====
section
/-! SUPPORT. What the micro-operations of a row read do, and the row read as a whole. -/

namespace Sys2Proof.Machine

theorem microSelect_of_idle {r : Row} {s : State} (h : s.readInProgress = false) :
    microSelect r s = .done { s with selAH := r.levels.1, selIN := r.levels.2 } := by
  rw [microSelect, h, ← State.driveAll_selectDrives]
  rfl

theorem microSelect_of_reading {r : Row} {s : State} (h : s.readInProgress = true) :
    microSelect r s = .stopped (s.stopEntry .readInterleaved (encode (.select r))) := by
  simp [microSelect, h]

theorem microLatch_of_idle {r : Row} {s : State} (h : s.readInProgress = false) (hr : (s.selAH, s.selIN) = r.levels) :
    microLatch s = .done (({ s with lat := .low } : State).capture r) := by
  have : selRow s.selAH s.selIN = some r := selRow_eq_some.2 hr.symm
  simp [microLatch, h, this, State.pulse_lat]

theorem microSample_of_unread {s : State} (hv : s.srValid = true) (hn : s.nread.toNat = s.k.toNat) :
    microSample s = .done s.readBit := by
  simp [microSample, hv, hn]

theorem microClock_of_read {s : State} (hv : s.srValid = true) (hk : s.k ≠ 7) (hn : s.nread.toNat = s.k.toNat + 1) :
    microClock s = .done ({ s with clk := .low } : State).shift := by
  rw [microClock, if_neg (by simp [hv]), if_neg (by rintro (h | h) <;> contradiction), State.pulse_clk]

theorem microLatch_of_reading {s : State} (h : s.readInProgress = true) :
    microLatch s = .stopped (s.stopEntry .readInterleaved (encode .latch)) := by
  simp [microLatch, h]

theorem microSample_of_unlatched {s : State} (hv : s.srValid = false) :
    microSample s = .stopped (s.stopEntry .notLatched (encode .sample)) := by
  simp [microSample, hv]

theorem microSample_of_misplaced {s : State} (hv : s.srValid = true) (hn : s.nread.toNat ≠ s.k.toNat) :
    microSample s = .stopped (s.stopEntry .samplePosition (encode .sample)) := by
  simp [microSample, hv, hn]

theorem microClock_of_unlatched {s : State} (hv : s.srValid = false) :
    microClock s = .stopped (s.stopEntry .notLatched (encode .clock)) := by
  simp [microClock, hv]

theorem microClock_of_misplaced {s : State} (hv : s.srValid = true) (hn : s.k = 7 ∨ s.nread.toNat ≠ s.k.toNat + 1) :
    microClock s = .stopped (s.stopEntry .clockPosition (encode .clock)) := by
  rw [microClock, if_neg (by simp [hv]), if_pos hn]

/-- What holds in a row read of `p` from `s0` after position `j` is read (R74, R77, R78). -/
structure ReadUpTo (p : Byte) (r : Row) (s0 : State) (j : Nat) (s : State) : Prop where
  bound : j < 8
  valid : s.srValid = true
  k : s.k = BitVec.ofNat 3 j
  nread : s.nread = BitVec.ofNat 4 (j + 1)
  lrow : s.lrow = some r
  stage : ∀ i, j + i < 8 → s.sr.getLsbD i = p.getLsbD (j + i)
  bits : ∀ i (_ : i < 8), i ≤ j → s.raw[i] = p.getLsbD i
  select : (s.selAH, s.selIN) = r.levels
  lat : s.lat = .low
  clk : 0 < j → s.clk = .low
  env : s.env = { pins := s0.env.pins.tail, serial := s0.env.serial.drop j, count := s0.env.count + 1 + j }
  rest : s.stop = s0.stop ∧ s.stopOp = s0.stopOp ∧ s.stopPhase = s0.stopPhase ∧ s.phase = s0.phase ∧ s.out = s0.out
  snapshot : SnapshotKept s0 s
  press : PressStateKept s0 s
  configuration : ConfigurationKept s0 s

/-- The select, the latch and the first sample of a row read. -/
theorem readUpTo_zero {r : Row} {s : State} (h : s.readInProgress = false) :
    ∃ t, ((microSelect r s).andThen microLatch).andThen microSample = .done t ∧
      ReadUpTo (s.env.rowPins r) r s 0 t := by
  have hl := microLatch_of_idle (s := { s with selAH := r.levels.1, selIN := r.levels.2 }) (r := r) h rfl
  rw [microSelect_of_idle h, MicroResult.andThen_done, hl, MicroResult.andThen_done, microSample_of_unread rfl rfl]
  refine ⟨_, rfl, by decide, rfl, rfl, rfl, rfl, ?_, ?_, rfl, rfl, ?_, rfl, ⟨rfl, rfl, rfl, rfl, rfl⟩,
    ⟨rfl, rfl⟩, ⟨rfl, rfl, rfl, rfl, rfl⟩, ⟨rfl, rfl, rfl⟩⟩
  · intro i _; simp
  · rintro i hi h0
    obtain rfl : i = 0 := by omega
    rw [State.readBit_raw, State.dataLevel_of_valid rfl]
    simp
  · intro h; omega

/-- One position more. -/
theorem readUpTo_succ {p : Byte} {r : Row} {s0 s : State} {j : Nat} (h : ReadUpTo p r s0 j s) (hj : j < 7) :
    ∃ t, microClockSample s = .done t ∧ ReadUpTo p r s0 (j + 1) t := by
  have hk : s.k.toNat = j := by rw [h.k, BitVec.toNat_ofNat]; omega
  have hn : s.nread.toNat = j + 1 := by rw [h.nread, BitVec.toNat_ofNat]; omega
  have hk7 : s.k ≠ 7 := by intro e; rw [e] at hk; simp at hk; omega
  have hk1 : (s.k + 1).toNat = j + 1 := by rw [BitVec.toNat_add, hk]; simp; omega
  rw [microClockSample, microClock_of_read h.valid hk7 (by omega), MicroResult.andThen_done,
    microSample_of_unread (by simp [h.valid]) (by simp only [State.shift_nread, State.shift_k, hn, hk1])]
  refine ⟨_, rfl, by omega, by simp [h.valid], ?_, ?_, by simp [h.lrow], ?_, ?_, by simp [h.select], by simp [h.lat], by simp, ?_,
    by simpa using h.rest, by simpa [SnapshotKept] using h.snapshot, by simpa [PressStateKept] using h.press,
    by simpa [ConfigurationKept] using h.configuration⟩
  · apply BitVec.eq_of_toNat_eq
    simp only [State.readBit_k, State.shift_k]
    rw [hk1, BitVec.toNat_ofNat]; omega
  · apply BitVec.eq_of_toNat_eq
    simp only [State.readBit_nread, State.shift_nread]
    rw [BitVec.toNat_add, hn, BitVec.toNat_ofNat]; simp
  · intro i hi
    simp only [State.readBit_sr, State.shift_sr]
    rw [BitVec.getLsbD_append, BitVec.getLsbD_extractLsb']
    have hi7 : i < 7 := by omega
    simp only [hi7, decide_true, Bool.true_and, if_true]
    rw [h.stage (1 + i) (by omega)]
    congr 1; omega
  · intro i hi hij
    simp only [State.readBit_raw, State.shift_raw, State.shift_nread, hn, Vector.getElem_setIfInBounds]
    by_cases hi' : j + 1 = i
    · subst hi'
      simp only [if_true]
      rw [State.dataLevel_of_valid (by simp [h.valid]), Level.bit_ofBit]
      simp only [State.shift_sr]
      rw [BitVec.getLsbD_append, BitVec.getLsbD_extractLsb']
      simpa using h.stage 1 (by omega)
    · simp only [hi', if_false]
      exact h.bits i hi (by omega)
  · simp only [State.readBit_env, State.shift_env, Env.afterSerialIn, h.env]
    simp [Nat.add_assoc]

/-- A complete row read reads the whole of the captured row (R80). -/
theorem microReadRow_of_idle {r : Row} {s : State} (h : s.readInProgress = false) :
    ∃ t, microReadRow r s = .done t ∧ ReadUpTo (s.env.rowPins r) r s 7 t := by
  obtain ⟨t0, e0, h0⟩ := readUpTo_zero (r := r) h
  obtain ⟨t1, e1, h1⟩ := readUpTo_succ h0 (by decide)
  obtain ⟨t2, e2, h2⟩ := readUpTo_succ h1 (by decide)
  obtain ⟨t3, e3, h3⟩ := readUpTo_succ h2 (by decide)
  obtain ⟨t4, e4, h4⟩ := readUpTo_succ h3 (by decide)
  obtain ⟨t5, e5, h5⟩ := readUpTo_succ h4 (by decide)
  obtain ⟨t6, e6, h6⟩ := readUpTo_succ h5 (by decide)
  obtain ⟨t7, e7, h7⟩ := readUpTo_succ h6 (by decide)
  refine ⟨t7, ?_, h7⟩
  simp [microReadRow, e0, repeatMicro, e1, e2, e3, e4, e5, e6, e7]

theorem microReadRow_of_reading {r : Row} {s : State} (h : s.readInProgress = true) :
    microReadRow r s = .stopped (s.stopEntry .readInterleaved (encode (.select r))) := by
  simp [microReadRow, microSelect_of_reading h]

/-- The whole of RAW after the eighth read. -/
theorem ReadUpTo.raw {p : Byte} {r : Row} {s0 s : State} (h : ReadUpTo p r s0 7 s) : rawByte s.raw = p := by
  apply BitVec.eq_of_getLsbD_eq
  intro i hi
  rw [rawByte_getLsbD _ i hi, h.bits i hi (by omega)]

end Sys2Proof.Machine
end

