-- ==== Sys2Proof/Laws/Poll.lean ====
section
/-! SUPPORT. A row's read and decode, the three rows of a cycle, and POLL as a whole. -/

namespace Sys2Proof.Machine

/-- A row read and its decode, when it is the row's turn (R79, R85). -/
theorem microRowCycle_of_ready {r : Row} {s : State} (h : s.readInProgress = false) (ho : s.snapv = decodedBefore r) :
    ∃ u, microReadRow r s = .done u ∧ ReadUpTo (s.env.rowPins r) r s 7 u ∧
      microRowCycle r s = .done (u.recordSlice r) := by
  obtain ⟨u, e, H⟩ := microReadRow_of_idle (r := r) h
  refine ⟨u, e, H, ?_⟩
  rw [microRowCycle, e, MicroResult.andThen_done,
    microDecode_of_ready H.nread H.lrow (by rw [H.snapshot.2, ho])]

/-- What holds once all three rows of a cycle that began in `s0` are decoded (R87). -/
structure CycleRead (s0 s : State) : Prop where
  nread : s.nread = 8
  k : s.k = 7
  lrow : s.lrow = some .CMD
  valid : s.srValid = true
  select : s.selAH = .high ∧ s.selIN = .high
  pulses : s.lat = .low ∧ s.clk = .low
  snap : s.snap = cycleSnapshot s0.env
  snapv : s.snapv = 0b111
  env : s.env = s0.env.afterRow.afterRow.afterRow
  raw : rawByte s.raw = s0.env.afterRow.afterRow.rowPins .CMD
  rest : s.stop = s0.stop ∧ s.stopOp = s0.stopOp ∧ s.stopPhase = s0.stopPhase ∧ s.phase = s0.phase ∧ s.out = s0.out
  press : PressStateKept s0 s
  configuration : ConfigurationKept s0 s

theorem State.readInProgress_of_eight {s : State} (h : s.nread = 8) : s.readInProgress = false := by
  simp [State.readInProgress, h]

theorem ReadUpTo.env_afterRow {p : Byte} {r : Row} {s0 s : State} (h : ReadUpTo p r s0 7 s) :
    s.env = s0.env.afterRow := by
  simp [h.env, Env.afterRow]

/-- The three rows of a cycle, read and decoded in order. -/
theorem threeRows_of_start {s : State} (h : s.readInProgress = false) (hv : s.snapv = 0b000) :
    ∃ t, ((microRowCycle .AH s).andThen (microRowCycle .IN)).andThen (microRowCycle .CMD) = .done t ∧
      CycleRead s t := by
  obtain ⟨a, -, A, ea⟩ := microRowCycle_of_ready (r := .AH) h hv
  have va : (a.recordSlice .AH).snapv = decodedBefore .IN := by
    rw [State.recordSlice_snapv, A.snapshot.2, hv]; rfl
  obtain ⟨b, -, B, eb⟩ := microRowCycle_of_ready (r := .IN) (s := a.recordSlice .AH)
    (State.readInProgress_of_eight A.nread) va
  have vb : (b.recordSlice .IN).snapv = decodedBefore .CMD := by
    rw [State.recordSlice_snapv, B.snapshot.2, va]; rfl
  obtain ⟨c, -, C, ec⟩ := microRowCycle_of_ready (r := .CMD) (s := b.recordSlice .IN)
    (State.readInProgress_of_eight B.nread) vb
  have e1 : (a.recordSlice .AH).env = s.env.afterRow := A.env_afterRow
  have e2 : (b.recordSlice .IN).env = s.env.afterRow.afterRow := by rw [← e1]; exact B.env_afterRow
  have sA : a.snap = s.snap := A.snapshot.1
  have sB : b.snap = (a.recordSlice .AH).snap := B.snapshot.1
  have sC : c.snap = (b.recordSlice .IN).snap := C.snapshot.1
  have hsel : c.selAH = .high ∧ c.selIN = .high := by
    have := C.select
    simpa [Row.levels] using this
  refine ⟨c.recordSlice .CMD, by rw [ea, MicroResult.andThen_done, eb, MicroResult.andThen_done, ec],
    C.nread, C.k, C.lrow, C.valid, hsel, ⟨C.lat, C.clk (by decide)⟩, ?_, ?_, ?_, ?_, ?_, ?_, ?_⟩
  · apply buttonVec_ext
    intro q
    have rA := A.raw
    have rB := B.raw
    have rC := C.raw
    rw [e1] at rB
    rw [e2] at rC
    simp only [State.recordSlice_snap, sC, sB, sA, cycleSnapshot, sliceOf_or, sliceOf_decodeRow, rA, rB, rC]
    cases q
    · rw [sliceOf_writeSlice_other _ _ (by decide), sliceOf_writeSlice_other _ _ (by decide), sliceOf_writeSlice_same]
      simp
    · rw [sliceOf_writeSlice_other _ _ (by decide), sliceOf_writeSlice_same]
      simp
    · rw [sliceOf_writeSlice_same]
      simp
  · rw [State.recordSlice_snapv, C.snapshot.2, vb]; rfl
  · rw [State.recordSlice_env, C.env_afterRow, e2]
  · rw [State.recordSlice_raw, C.raw, e2]
  · have := A.rest
    have := B.rest
    have := C.rest
    simp_all
  · have := A.press
    have := B.press
    have := C.press
    simp_all [PressStateKept]
  · have := A.configuration
    have := B.configuration
    have := C.configuration
    simp_all [ConfigurationKept]

/-- POLL from a state in which a cycle can start (R99). -/
theorem microPoll_of_start {s : State} (h : s.readInProgress = false) (hv : s.snapv = 0b000) :
    ∃ t, CycleRead s t ∧
      microPoll s = .done (t.transition.emit (if t.transition.any then [Event.delay .guardDelay] else [])) := by
  obtain ⟨t, e, T⟩ := threeRows_of_start h hv
  refine ⟨t, T, ?_⟩
  rw [microPoll, e, MicroResult.andThen_done, microAdvance_of_complete T.snapv, MicroResult.andThen_done, microGuard_eq]

theorem microPoll_of_reading {s : State} (h : s.readInProgress = true) :
    microPoll s = .stopped (s.stopEntry .readInterleaved (encode (.select .AH))) := by
  rw [microPoll, microRowCycle, microReadRow_of_reading h]
  rfl

/-- POLL with a partial cycle pending: its READROW AH completes, and its first DECODE stops (R99). -/
theorem microPoll_of_pending {s : State} (h : s.readInProgress = false) (hv : s.snapv ≠ 0b000) :
    ∃ u, microReadRow .AH s = .done u ∧ ReadUpTo (s.env.rowPins .AH) .AH s 7 u ∧
      microPoll s = .stopped (u.stopEntry .decodeOrder (encode .decode)) := by
  obtain ⟨u, e, H⟩ := microReadRow_of_idle (r := .AH) h
  refine ⟨u, e, H, ?_⟩
  rw [microPoll, microRowCycle, e, MicroResult.andThen_done,
    microDecode_of_disordered H.nread H.lrow (by rw [H.snapshot.2]; exact hv)]
  rfl

end Sys2Proof.Machine
end

