-- ==== Sys2Proof/Laws/Frames.lean ====
section
/-! SUPPORT. What every operation keeps, whether it completes or stops: said once per micro-operation and lifted to the
composites, so that a frame is read off and never proved by unfolding an operation again. -/

namespace Sys2Proof.Machine

/-- The micro-operation or composite of an operation: its meaning before PHASE moves. -/
def microOf : Instr → State → MicroResult
  | .select r => microSelect r
  | .latch => microLatch
  | .sample => microSample
  | .clock => microClock
  | .readRow r => microReadRow r
  | .decode => microDecode
  | .advance => microAdvance
  | .guard => microGuard
  | .poll => microPoll

theorem exec_eq_finish (i : Instr) (s : State) : exec i s = (microOf i s).finish := by cases i <;> rfl

/-- No operation is refused. -/
theorem exec_ne_refused (i : Instr) (s : State) (r : Refusal) : exec i s ≠ .refused r := by
  rw [exec_eq_finish]
  cases microOf i s <;> simp [MicroResult.finish]

/-- What completing keeps: the stop registers, PHASE and the configuration. -/
structure KeptByCompleting (s t : State) : Prop where
  stop : t.stop = s.stop ∧ t.stopOp = s.stopOp ∧ t.stopPhase = s.stopPhase
  phase : t.phase = s.phase
  configuration : ConfigurationKept s t

/-- What stopping leaves: a code 1 to 7 and PHASE recorded, PHASE and the configuration as they were. -/
structure LeftByStopping (s t : State) : Prop where
  code : 1 ≤ t.stop.toNat ∧ t.stop.toNat ≤ 7
  stopPhase : t.stopPhase = s.phase
  phase : t.phase = s.phase
  configuration : ConfigurationKept s t

theorem KeptByCompleting.refl (s : State) : KeptByCompleting s s := ⟨⟨rfl, rfl, rfl⟩, rfl, rfl, rfl, rfl⟩

theorem KeptByCompleting.trans {s t u : State} (h : KeptByCompleting s t) (k : KeptByCompleting t u) :
    KeptByCompleting s u := by
  obtain ⟨⟨_, _, _⟩, _, _, _, _⟩ := h
  obtain ⟨⟨_, _, _⟩, _, _, _, _⟩ := k
  constructor <;> simp_all [ConfigurationKept]

theorem KeptByCompleting.trans_stopping {s t u : State} (h : KeptByCompleting s t) (k : LeftByStopping t u) :
    LeftByStopping s u := by
  obtain ⟨⟨_, _, _⟩, _, _, _, _⟩ := h
  obtain ⟨⟨_, _⟩, _, _, _, _, _⟩ := k
  constructor <;> simp_all [ConfigurationKept]

/-- The codes an operation's checks record (R108). -/
theorem leftByStopping_stopEntry (s : State) (c : StopCause) (w : OpWord) (h : c.code.toNat ≤ 7 := by decide) :
    LeftByStopping s (s.stopEntry c w) :=
  ⟨⟨by rw [State.stopEntry_stop]; cases c <;> decide, h⟩, rfl, rfl, rfl, rfl, rfl⟩

/-- Sequencing operations that each keep what completing keeps. -/
theorem ends_andThen {s : State} {m : MicroResult} {f : State → MicroResult}
    (hm : m.Ends (KeptByCompleting s) (LeftByStopping s))
    (hf : ∀ t, (f t).Ends (KeptByCompleting t) (LeftByStopping t)) :
    (m.andThen f).Ends (KeptByCompleting s) (LeftByStopping s) := by
  cases m with
  | done t =>
    have := hf t
    rw [MicroResult.andThen_done]
    revert this
    cases f t with
    | done u => exact hm.trans
    | stopped u => exact hm.trans_stopping
    | fault e => exact id
  | stopped t => exact hm
  | fault e => trivial

theorem microSelect_ends (r : Row) (s : State) :
    (microSelect r s).Ends (KeptByCompleting s) (LeftByStopping s) := by
  cases h : s.readInProgress
  · rw [microSelect_of_idle h]; exact ⟨⟨rfl, rfl, rfl⟩, rfl, rfl, rfl, rfl⟩
  · rw [microSelect_of_reading h]; exact leftByStopping_stopEntry _ _ _

theorem microLatch_ends (s : State) : (microLatch s).Ends (KeptByCompleting s) (LeftByStopping s) := by
  cases h : s.readInProgress
  · simp only [microLatch, h, Bool.false_eq_true, if_false]
    cases selRow s.selAH s.selIN
    · trivial
    · exact ⟨⟨rfl, rfl, rfl⟩, rfl, rfl, rfl, rfl⟩
  · rw [microLatch_of_reading h]; exact leftByStopping_stopEntry _ _ _

theorem microSample_ends (s : State) : (microSample s).Ends (KeptByCompleting s) (LeftByStopping s) := by
  cases hv : s.srValid
  · rw [microSample_of_unlatched hv]; exact leftByStopping_stopEntry _ _ _
  · by_cases hn : s.nread.toNat = s.k.toNat
    · rw [microSample_of_unread hv hn]; exact ⟨⟨rfl, rfl, rfl⟩, rfl, rfl, rfl, rfl⟩
    · rw [microSample_of_misplaced hv hn]; exact leftByStopping_stopEntry _ _ _

theorem microClock_ends (s : State) : (microClock s).Ends (KeptByCompleting s) (LeftByStopping s) := by
  cases hv : s.srValid
  · rw [microClock_of_unlatched hv]; exact leftByStopping_stopEntry _ _ _
  · by_cases hn : s.k = 7 ∨ s.nread.toNat ≠ s.k.toNat + 1
    · rw [microClock_of_misplaced hv hn]; exact leftByStopping_stopEntry _ _ _
    · rw [not_or, not_ne_iff] at hn
      rw [microClock_of_read hv hn.1 hn.2]; exact ⟨⟨rfl, rfl, rfl⟩, rfl, rfl, rfl, rfl⟩

theorem microDecode_ends (s : State) : (microDecode s).Ends (KeptByCompleting s) (LeftByStopping s) := by
  by_cases h : s.nread = 8
  · cases hr : s.lrow with
    | none => rw [microDecode, if_neg (by simp [h]), hr]; trivial
    | some r =>
      by_cases ho : s.snapv = decodedBefore r
      · rw [microDecode_of_ready h hr ho]; exact ⟨⟨rfl, rfl, rfl⟩, rfl, rfl, rfl, rfl⟩
      · rw [microDecode_of_disordered h hr ho]; exact leftByStopping_stopEntry _ _ _
  · rw [microDecode_of_incomplete h]; exact leftByStopping_stopEntry _ _ _

theorem State.transition_kept (s : State) : KeptByCompleting s s.transition := by
  by_cases h : s.snap = 0
  · rw [State.transition_of_empty h]; exact ⟨⟨rfl, rfl, rfl⟩, rfl, rfl, rfl, rfl⟩
  · rw [State.transition_of_pressed h]; exact ⟨⟨rfl, rfl, rfl⟩, rfl, rfl, rfl, rfl⟩

theorem microAdvance_ends (s : State) : (microAdvance s).Ends (KeptByCompleting s) (LeftByStopping s) := by
  by_cases h : s.snapv = 0b111
  · rw [microAdvance_of_complete h]; exact s.transition_kept
  · rw [microAdvance_of_incomplete h]; exact leftByStopping_stopEntry _ _ _

theorem microGuard_ends (s : State) : (microGuard s).Ends (KeptByCompleting s) (LeftByStopping s) :=
  ⟨⟨rfl, rfl, rfl⟩, rfl, rfl, rfl, rfl⟩

theorem microReadRow_ends (r : Row) (s : State) :
    (microReadRow r s).Ends (KeptByCompleting s) (LeftByStopping s) := by
  cases h : s.readInProgress
  · obtain ⟨t, e, H⟩ := microReadRow_of_idle (r := r) h
    rw [e]
    exact ⟨⟨H.rest.1, H.rest.2.1, H.rest.2.2.1⟩, H.rest.2.2.2.1, H.configuration⟩
  · rw [microReadRow_of_reading h]; exact leftByStopping_stopEntry _ _ _

theorem microPoll_ends (s : State) : (microPoll s).Ends (KeptByCompleting s) (LeftByStopping s) :=
  ends_andThen
    (ends_andThen
      (ends_andThen
        (ends_andThen (ends_andThen (microReadRow_ends _ s) microDecode_ends)
          fun t => ends_andThen (microReadRow_ends _ t) microDecode_ends)
        fun t => ends_andThen (microReadRow_ends _ t) microDecode_ends)
      microAdvance_ends)
    microGuard_ends

/-- Every operation keeps or leaves what `KeptByCompleting` and `LeftByStopping` say. -/
theorem microOf_ends (i : Instr) (s : State) : (microOf i s).Ends (KeptByCompleting s) (LeftByStopping s) := by
  cases i with
  | select r => exact microSelect_ends r s
  | latch => exact microLatch_ends s
  | sample => exact microSample_ends s
  | clock => exact microClock_ends s
  | readRow r => exact microReadRow_ends r s
  | decode => exact microDecode_ends s
  | advance => exact microAdvance_ends s
  | guard => exact microGuard_ends s
  | poll => exact microPoll_ends s

/-- The next state of an operation: completed, with PHASE moved on, or stopped. -/
theorem exec_next_cases {i : Instr} {s t : State} (h : exec i s = .next t) :
    (∃ u, microOf i s = .done u ∧ KeptByCompleting s u ∧ t = u.advancePhase ∧ t.phase = s.nextPhase) ∨
    (microOf i s = .stopped t ∧ LeftByStopping s t) := by
  rw [exec_eq_finish] at h
  have e := microOf_ends i s
  obtain ⟨u, hu, rfl⟩ | hs := MicroResult.finish_eq_next.1 h
  · rw [hu] at e
    exact .inl ⟨u, hu, e, rfl, State.nextPhase_congr e.configuration.1 e.phase⟩
  · rw [hs] at e
    exact .inr ⟨hs, e⟩

end Sys2Proof.Machine
end

