-- ==== Sys2Proof/Laws/PerInstr.lean ====
section
/-! SUPPORT. What holds of every operation as syntax, said per constructor: its word is one of the legal words, with
its opcode in the upper nibble and no reserved bit set (spec/30_encoding.md R65, R66, R68). -/

/-- The word of `i` is legal, its upper nibble is `i`'s opcode, and its lower nibble is `i`'s operand. -/
def Sys2Proof.Laws.EncodesLegally.Statement (i : Sys2Proof.Instr) : Prop :=
  Sys2Proof.WellFormed.word (Sys2Proof.encode i) = true ∧
  Sys2Proof.opcodeOf (Sys2Proof.encode i) = Sys2Proof.opcode i ∧
  Sys2Proof.operandOf (Sys2Proof.encode i) = Sys2Proof.operand i

theorem Sys2Proof.Laws.EncodesLegally.select (r : Sys2Proof.Row) :
    Sys2Proof.Laws.EncodesLegally.Statement (.select r) := by
  cases r <;> exact ⟨by decide, by decide, by decide⟩

theorem Sys2Proof.Laws.EncodesLegally.latch : Sys2Proof.Laws.EncodesLegally.Statement .latch :=
  ⟨by decide, by decide, by decide⟩

theorem Sys2Proof.Laws.EncodesLegally.sample : Sys2Proof.Laws.EncodesLegally.Statement .sample :=
  ⟨by decide, by decide, by decide⟩

theorem Sys2Proof.Laws.EncodesLegally.clock : Sys2Proof.Laws.EncodesLegally.Statement .clock :=
  ⟨by decide, by decide, by decide⟩

theorem Sys2Proof.Laws.EncodesLegally.readRow (r : Sys2Proof.Row) :
    Sys2Proof.Laws.EncodesLegally.Statement (.readRow r) := by
  cases r <;> exact ⟨by decide, by decide, by decide⟩

theorem Sys2Proof.Laws.EncodesLegally.decode : Sys2Proof.Laws.EncodesLegally.Statement .decode :=
  ⟨by decide, by decide, by decide⟩

theorem Sys2Proof.Laws.EncodesLegally.advance : Sys2Proof.Laws.EncodesLegally.Statement .advance :=
  ⟨by decide, by decide, by decide⟩

theorem Sys2Proof.Laws.EncodesLegally.guard : Sys2Proof.Laws.EncodesLegally.Statement .guard :=
  ⟨by decide, by decide, by decide⟩

theorem Sys2Proof.Laws.EncodesLegally.poll : Sys2Proof.Laws.EncodesLegally.Statement .poll :=
  ⟨by decide, by decide, by decide⟩
end

