-- ==== Sys2Proof/Laws/Sequence.lean ====
section
/-! SUPPORT. Sequences of operations: no operation reads PHASE but to record it at a stop, so that a composite, its
expansion and the microprogram have one effect. -/

namespace Sys2Proof.Machine

/-- The same state at another PHASE. -/
def State.atPhase (s : State) (p : Nat) : State := { s with phase := p }

@[simp] theorem State.atPhase_phase (s : State) (p : Nat) : (s.atPhase p).phase = p := rfl

@[simp] theorem State.atPhase_stop (s : State) (p : Nat) : (s.atPhase p).stop = s.stop := rfl

@[simp] theorem State.atPhase_mode (s : State) (p : Nat) : (s.atPhase p).mode = s.mode := rfl

@[simp] theorem State.atPhase_atPhase (s : State) (p q : Nat) : (s.atPhase p).atPhase q = s.atPhase q := rfl

theorem State.advancePhase_eq (s : State) : s.advancePhase = s.atPhase s.nextPhase := rfl

/-- The same result at another PHASE: a stop records it. -/
def MicroResult.atPhase (p : Nat) : MicroResult → MicroResult
  | .done s => .done (s.atPhase p)
  | .stopped s => .stopped { s with phase := p, stopPhase := p }
  | .fault f => .fault f

theorem MicroResult.andThen_atPhase {m : MicroResult} {f : State → MicroResult} {p : Nat}
    (hf : ∀ s, f (s.atPhase p) = (f s).atPhase p) : (m.atPhase p).andThen f = (m.andThen f).atPhase p := by
  cases m with
  | done s => exact hf s
  | stopped s => rfl
  | fault e => rfl

theorem MicroResult.andThen_assoc (m : MicroResult) (f g : State → MicroResult) :
    (m.andThen f).andThen g = m.andThen fun s => (f s).andThen g := by
  cases m <;> rfl

theorem microSelect_atPhase (r : Row) (p : Nat) (s : State) :
    microSelect r (s.atPhase p) = (microSelect r s).atPhase p := by
  cases h : s.readInProgress
  · rw [microSelect_of_idle h, microSelect_of_idle (s := s.atPhase p) h]; rfl
  · rw [microSelect_of_reading h, microSelect_of_reading (s := s.atPhase p) h]; rfl

theorem microLatch_atPhase (p : Nat) (s : State) : microLatch (s.atPhase p) = (microLatch s).atPhase p := by
  cases h : s.readInProgress
  · have h' : (s.atPhase p).readInProgress = false := h
    simp only [microLatch, h, h', Bool.false_eq_true, if_false]
    show (match selRow s.selAH s.selIN with | none => _ | some r => _) = _
    cases selRow s.selAH s.selIN <;> rfl
  · rw [microLatch_of_reading h, microLatch_of_reading (s := s.atPhase p) h]; rfl

theorem microSample_atPhase (p : Nat) (s : State) : microSample (s.atPhase p) = (microSample s).atPhase p := by
  cases hv : s.srValid
  · rw [microSample_of_unlatched hv, microSample_of_unlatched (s := s.atPhase p) hv]; rfl
  · by_cases hn : s.nread.toNat = s.k.toNat
    · rw [microSample_of_unread hv hn, microSample_of_unread (s := s.atPhase p) hv hn]; rfl
    · rw [microSample_of_misplaced hv hn, microSample_of_misplaced (s := s.atPhase p) hv hn]; rfl

theorem microClock_atPhase (p : Nat) (s : State) : microClock (s.atPhase p) = (microClock s).atPhase p := by
  cases hv : s.srValid
  · rw [microClock_of_unlatched hv, microClock_of_unlatched (s := s.atPhase p) hv]; rfl
  · by_cases hn : s.k = 7 ∨ s.nread.toNat ≠ s.k.toNat + 1
    · rw [microClock_of_misplaced hv hn, microClock_of_misplaced (s := s.atPhase p) hv hn]; rfl
    · rw [not_or, not_ne_iff] at hn
      rw [microClock_of_read hv hn.1 hn.2, microClock_of_read (s := s.atPhase p) hv hn.1 hn.2]; rfl

theorem microDecode_atPhase (p : Nat) (s : State) : microDecode (s.atPhase p) = (microDecode s).atPhase p := by
  by_cases h : s.nread = 8
  · cases hr : s.lrow with
    | none =>
      have hr' : (s.atPhase p).lrow = none := hr
      have h' : (s.atPhase p).nread = 8 := h
      rw [microDecode, microDecode, if_neg (not_not.2 h), if_neg (not_not.2 h'), hr, hr']; rfl
    | some r =>
      by_cases ho : s.snapv = decodedBefore r
      · rw [microDecode_of_ready h hr ho, microDecode_of_ready (s := s.atPhase p) h hr ho]; rfl
      · rw [microDecode_of_disordered h hr ho, microDecode_of_disordered (s := s.atPhase p) h hr ho]; rfl
  · rw [microDecode_of_incomplete h, microDecode_of_incomplete (s := s.atPhase p) h]; rfl

theorem microAdvance_atPhase (p : Nat) (s : State) : microAdvance (s.atPhase p) = (microAdvance s).atPhase p := by
  by_cases h : s.snapv = 0b111
  · rw [microAdvance_of_complete h, microAdvance_of_complete (s := s.atPhase p) h]
    by_cases hs : s.snap = 0
    · rw [State.transition_of_empty hs, State.transition_of_empty (s := s.atPhase p) hs]; rfl
    · rw [State.transition_of_pressed hs, State.transition_of_pressed (s := s.atPhase p) hs]; rfl
  · rw [microAdvance_of_incomplete h, microAdvance_of_incomplete (s := s.atPhase p) h]; rfl

theorem microGuard_atPhase (p : Nat) (s : State) : microGuard (s.atPhase p) = (microGuard s).atPhase p := rfl

theorem repeatMicro_atPhase {f : State → MicroResult} {p : Nat} (hf : ∀ s, f (s.atPhase p) = (f s).atPhase p)
    (n : Nat) (s : State) : repeatMicro n f (s.atPhase p) = (repeatMicro n f s).atPhase p := by
  induction n generalizing s with
  | zero => rfl
  | succ n ih => rw [repeatMicro, repeatMicro, hf, MicroResult.andThen_atPhase ih]

theorem microReadRow_atPhase (r : Row) (p : Nat) (s : State) :
    microReadRow r (s.atPhase p) = (microReadRow r s).atPhase p := by
  have hcs : ∀ s : State, microClockSample (s.atPhase p) = (microClockSample s).atPhase p := by
    intro s
    rw [microClockSample, microClock_atPhase, MicroResult.andThen_atPhase (microSample_atPhase p), microClockSample]
  rw [microReadRow, microSelect_atPhase, MicroResult.andThen_atPhase (microLatch_atPhase p),
    MicroResult.andThen_atPhase (microSample_atPhase p), MicroResult.andThen_atPhase (repeatMicro_atPhase hcs 7),
    microReadRow]

theorem microPoll_atPhase (p : Nat) (s : State) : microPoll (s.atPhase p) = (microPoll s).atPhase p := by
  have hrow : ∀ (r : Row) (s : State), microRowCycle r (s.atPhase p) = (microRowCycle r s).atPhase p := by
    intro r s
    rw [microRowCycle, microReadRow_atPhase, MicroResult.andThen_atPhase (microDecode_atPhase p), microRowCycle]
  rw [microPoll, hrow, MicroResult.andThen_atPhase (hrow _), MicroResult.andThen_atPhase (hrow _),
    MicroResult.andThen_atPhase (microAdvance_atPhase p), MicroResult.andThen_atPhase (microGuard_atPhase p), microPoll]

/-- No operation depends on PHASE but to record it at a stop (R104, R111). -/
theorem microOf_atPhase (i : Instr) (p : Nat) (s : State) : microOf i (s.atPhase p) = (microOf i s).atPhase p := by
  cases i with
  | select r => exact microSelect_atPhase r p s
  | latch => exact microLatch_atPhase p s
  | sample => exact microSample_atPhase p s
  | clock => exact microClock_atPhase p s
  | readRow r => exact microReadRow_atPhase r p s
  | decode => exact microDecode_atPhase p s
  | advance => exact microAdvance_atPhase p s
  | guard => rfl
  | poll => exact microPoll_atPhase p s

/-- Operations one after the other at one PHASE: what a composite does. -/
def runMicros : List Instr → State → MicroResult
  | [], s => .done s
  | i :: is, s => (microOf i s).andThen (runMicros is)

theorem runMicros_atPhase (is : List Instr) (p : Nat) (s : State) :
    runMicros is (s.atPhase p) = (runMicros is s).atPhase p := by
  induction is generalizing s with
  | nil => rfl
  | cons i is ih => rw [runMicros, microOf_atPhase, MicroResult.andThen_atPhase ih, runMicros]

theorem runMicros_append (is js : List Instr) (s : State) :
    runMicros (is ++ js) s = (runMicros is s).andThen (runMicros js) := by
  induction is generalizing s with
  | nil => rfl
  | cons i is ih =>
    rw [List.cons_append, runMicros, runMicros, MicroResult.andThen_assoc]
    exact congrArg _ (funext ih)

/-- The next state of an operation that completes. -/
theorem exec_of_done {i : Instr} {s u : State} (h : microOf i s = .done u) : exec i s = .next (u.atPhase s.nextPhase) := by
  have e := microOf_ends i s
  rw [h] at e
  rw [exec_eq_finish, h, MicroResult.finish_done, State.advancePhase_eq,
    State.nextPhase_congr e.configuration.1 e.phase]

/-- Operations that complete one after the other run, whatever PHASE each of them has. -/
theorem runOps_of_runMicros {is : List Instr} {s t : State} (h0 : s.stop = 0) (h : runMicros is s = .done t) :
    ∃ p, runOps is s = .next (t.atPhase p) := by
  induction is generalizing s t with
  | nil => cases h; exact ⟨s.phase, rfl⟩
  | cons i is ih =>
    rw [runMicros] at h
    cases hu : microOf i s with
    | done u =>
      rw [hu, MicroResult.andThen_done] at h
      have e := microOf_ends i s
      rw [hu] at e
      have hs : (u.atPhase s.nextPhase).stop = 0 := e.stop.1.trans h0
      obtain ⟨p, hp⟩ := ih hs (t := t.atPhase s.nextPhase) (by rw [runMicros_atPhase, h]; rfl)
      exact ⟨p, by rw [runOps, exec_of_done hu]; simp only [hs, if_true]; exact hp⟩
    | stopped u => rw [hu] at h; cases h
    | fault f => rw [hu] at h; cases h

theorem microReadRow_eq_runMicros (r : Row) (s : State) : microReadRow r s = runMicros (readRowExpansion r) s := by
  cases h : microSelect r s with
  | done t =>
    simp only [microReadRow, h, repeatMicro, microClockSample, readRowExpansion, runMicros, microOf, List.replicate,
      List.flatten_cons, List.flatten_nil, List.cons_append, List.nil_append, MicroResult.andThen_assoc,
      MicroResult.andThen_done]
  | stopped t => simp only [microReadRow, h, readRowExpansion, List.cons_append, runMicros, microOf]; rfl
  | fault f => simp only [microReadRow, h, readRowExpansion, List.cons_append, runMicros, microOf]; rfl

theorem microPoll_eq_runMicros (s : State) : microPoll s = runMicros pollExpansion s := by
  simp only [microPoll, microRowCycle, pollExpansion, runMicros, microOf, MicroResult.andThen_assoc]
  cases microReadRow .AH s with
  | done t =>
    simp only [MicroResult.andThen_done]
    have hd : ∀ m : MicroResult, m.andThen MicroResult.done = m := by intro m; cases m <;> rfl
    simp only [hd]
  | stopped t => rfl
  | fault f => rfl

/-- The operations of the microprogram: POLL's expansion with each READROW expanded (R101). -/
def cycleOps : List Instr :=
  readRowExpansion .AH ++ (.decode :: (readRowExpansion .IN ++ (.decode :: (readRowExpansion .CMD ++
    [.decode, .advance, .guard]))))

theorem microprogram_eq : microprogram = cycleOps.map encode := by decide

theorem microPoll_eq_cycleOps (s : State) : microPoll s = runMicros cycleOps s := by
  rw [microPoll_eq_runMicros]
  have hx : ∀ (r : Row) (is : List Instr),
      runMicros (.readRow r :: is) = runMicros (readRowExpansion r ++ is) := by
    intro r is
    funext t
    rw [runMicros_append, ← microReadRow_eq_runMicros]
    rfl
  have hc : ∀ (is js : List Instr), runMicros is = runMicros js →
      runMicros (.decode :: is) = runMicros (.decode :: js) := by
    intro is js h
    funext t
    rw [runMicros, runMicros, h]
  have ha : ∀ (ps is js : List Instr), runMicros is = runMicros js → runMicros (ps ++ is) = runMicros (ps ++ js) := by
    intro ps is js h
    funext t
    rw [runMicros_append, runMicros_append, h]
  rw [pollExpansion, hx, cycleOps]
  exact congrFun (ha _ _ _ (hc _ _ ((hx _ _).trans (ha _ _ _ (hc _ _ (hx _ _)))))) s

/-- A step of a running autonomous block runs the operation its microprogram has at PHASE (R102). -/
theorem step_autonomous {s : State} {i : Instr} (hm : s.mode = .autonomous) (h0 : s.stop = 0)
    (hi : cycleOps[s.phase]? = some i) : step s = exec i s := by
  have hw : microprogram[s.phase]? = some (encode i) := by rw [microprogram_eq, List.getElem?_map, hi]; rfl
  have hd : decodeOp (encode i) = .ok i := by
    cases i <;> first | rfl | (rename_i r; cases r <;> rfl)
  rw [step, if_neg (by simp [h0]), State.fetch, hm]
  simp only [hw, hd]

/-- One step and then the rest of a run. -/
theorem run_succ_of_step (M : Host.Core) (n : Nat) (s t : M.State) (h : M.step s = .next t) :
    M.run (n + 1) s = M.run n t := by
  rw [Host.Core.run, h]

/-- Steps of autonomous mode that complete one after the other run as one sequence (R102). -/
theorem run_autonomous (is : List Instr) (s t : State) (hm : s.mode = .autonomous) (h0 : s.stop = 0)
    (hp : s.phase + is.length ≤ 56) (hi : ∀ j, j < is.length → cycleOps[s.phase + j]? = is[j]?)
    (h : runMicros is s = .done t) :
    Sys2Proof.core.run is.length s = .next (t.atPhase (if is = [] then s.phase else (s.phase + is.length) % 56)) := by
  induction is generalizing s t with
  | nil => cases h; rfl
  | cons i is ih =>
    rw [runMicros] at h
    cases hu : microOf i s with
    | done u =>
      rw [hu, MicroResult.andThen_done] at h
      have e := microOf_ends i s
      rw [hu] at e
      have hl : s.phase + (is.length + 1) ≤ 56 := hp
      have hstep : Sys2Proof.core.step s = .next (u.atPhase s.nextPhase) := by
        show step s = _
        rw [step_autonomous hm h0 (by simpa using hi 0 (by simp)), exec_of_done hu]; rfl
      have hrun : Sys2Proof.core.run (is.length + 1) s = Sys2Proof.core.run is.length (u.atPhase s.nextPhase) := by
        exact run_succ_of_step Sys2Proof.core is.length s _ hstep
      rw [List.length_cons, hrun]
      have hn : s.nextPhase = (s.phase + 1) % 56 := State.nextPhase_autonomous hm
      by_cases hnil : is = []
      · subst hnil
        cases h
        rw [hn]
        rfl
      · have hlen : 0 < is.length := List.length_pos_of_ne_nil hnil
        have hn' : s.nextPhase = s.phase + 1 := by rw [hn]; omega
        have := ih (u.atPhase s.nextPhase) (t.atPhase s.nextPhase) (e.configuration.1.trans hm) (e.stop.1.trans h0)
          (by simp only [State.atPhase_phase]; omega)
          (fun j hj => by
            have := hi (j + 1) (by simpa using hj)
            simpa [hn', Nat.add_assoc, Nat.add_comm 1 j] using this)
          (by rw [runMicros_atPhase, h]; rfl)
        rw [this]
        rw [if_neg hnil, if_neg (List.cons_ne_nil i is), State.atPhase_atPhase, State.atPhase_phase, hn',
          show s.phase + 1 + is.length = s.phase + (is.length + 1) by omega]
    | stopped u => rw [hu] at h; cases h
    | fault f => rw [hu] at h; cases h

/-- ADVANCE on a complete snapshot is the transition (R89). -/
theorem exec_advance_withSnapshot (s : State) (v : ButtonVec) :
    exec .advance (s.withSnapshot v) = .next (s.withSnapshot v).transition.advancePhase := by
  rw [exec, execAdvance, microAdvance_of_complete rfl, MicroResult.finish_done]

theorem advanceAll_cons (s : State) (v : ButtonVec) (vs : List ButtonVec) :
    advanceAll (v :: vs) s = advanceAll vs (s.withSnapshot v).transition.advancePhase := by
  rw [advanceAll, exec_advance_withSnapshot]

/-- The state after a cycle's ADVANCE and GUARD on a complete snapshot (R89, R93). -/
def State.advanceGuard (s : State) (v : ButtonVec) : State :=
  ((s.withSnapshot v).transition.advancePhase.emit
    (if (s.withSnapshot v).transition.any then [Event.delay .guardDelay] else [])).advancePhase

theorem advanceGuardAll_cons {s : State} (h : s.stop = 0) (v : ButtonVec) (vs : List ButtonVec) :
    advanceGuardAll (v :: vs) s = advanceGuardAll vs (s.advanceGuard v) := by
  have h1 : (s.withSnapshot v).transition.advancePhase.stop = 0 := ((s.withSnapshot v).transition_kept.stop.1).trans h
  have h2 : (s.advanceGuard v).stop = 0 := h1
  have e : runOps [.advance, .guard] (s.withSnapshot v) = .next (s.advanceGuard v) := by
    rw [runOps, exec_advance_withSnapshot]
    simp only [h1, if_true]
    rw [runOps, exec, execGuard, microGuard_eq, MicroResult.finish_done]
    show (if (s.advanceGuard v).stop = 0 then runOps [] (s.advanceGuard v) else _) = _
    rw [if_pos h2, runOps]
  rw [advanceGuardAll, e]

end Sys2Proof.Machine
end

