-- ==== Sys2Proof/Tests/Slice0.lean ====
section
/-! SUPPORT. Tests of the model. Every expected value stands in spec/95_test_vectors.md (the vector's name is in the
comment) or is worked out by hand from the rule named. A test whose name begins with `test_witness` shows a concrete
state and operands that meet all hypotheses of one statement of Certificates/Slice0/Obligations.lean together, clause
by clause. -/

namespace Sys2Proof.Tests

open Sys2Proof Sys2Proof.Machine

/-! ### Helpers -/

/-- The state after a step, if there is one. -/
def nextState (o : Host.Outcome State Fault Refusal) : Option State :=
  match o with
  | .next t => some t
  | .fault _ => none
  | .refused _ => none

/-- One look at the state after a step. -/
def peek {α : Type} (o : Host.Outcome State Fault Refusal) (f : State → α) : Option α := (nextState o).map f

/-- A driven block right after reset, with the given program and row draws; every serial draw is 0. -/
def power (prog : List OpWord) (pins : List Byte) : State :=
  drivenReset prog { releaseAllOnlyIfActive := false, pressOrder := .ascending }
    { pins := pins, serial := List.replicate 21 false, count := 0 }

/-- A driven block whose AH row was latched, with SR, K and NREAD as given. -/
def reading (sr : Byte) (k : BitVec 3) (nread : BitVec 4) : State :=
  { power [] [] with selAH := .low, sr := sr, srValid := true, k := k, nread := nread, lrow := some .AH }

/-- A driven block whose row `r` was read, with RAW and SNAPV as given. -/
def rowRead (r : Row) (raw : Byte) (snapv : BitVec 3) : State :=
  { power [] [] with srValid := true, k := 7, nread := 8, lrow := some r, raw := bitsOfByte raw, snapv := snapv }

/-- A driven block with a complete snapshot, and ACTIVE, ANY and LAST_KEY as given. -/
def snapped (active snap : ButtonVec) (lastKey : Option KeyCode) : State :=
  { power [] [] with active := active, any := anyAfter active, lastKey := lastKey, snap := snap, snapv := 0b111 }

/-- A block in autonomous mode at the given PHASE. -/
def autonomousAt (phase : Nat) (pins : List Byte) : State :=
  { power [] pins with mode := .autonomous, phase := phase }

/-- A block that stopped. -/
def stoppedBlock : State := { power [0x10] [] with stop := 10, stopOp := 0x10 }

/-- STOP, STOP_OP, STOP_PHASE and PHASE. -/
def stopOf (s : State) : BitVec 4 × OpWord × Nat × Nat := (s.stop, s.stopOp, s.stopPhase, s.phase)

/-- What the last ADVANCE left. -/
structure PressView where
  out : List Event
  active : ButtonVec
  any : Bool
  lastKey : Option KeyCode
  pressed : ButtonVec
  released : ButtonVec
  deriving DecidableEq

def pressOf (s : State) : PressView := ⟨s.out, s.active, s.any, s.lastKey, s.pressedOut, s.releasedOut⟩

/-- What the last row read left. -/
structure ReadView where
  valid : Bool
  lrow : Option Row
  k : BitVec 3
  nread : BitVec 4
  deriving DecidableEq

def readOf (s : State) : ReadView := ⟨s.srValid, s.lrow, s.k, s.nread⟩

/-! ### Words -/

/-- WellFormed refuses an ill-formed word of each kind (R65, R66, R53): opcode 0x0 and 0xA, reserved bits of a word
with a row and of one without, selector 0b00. -/
theorem test_ill_formed_words :
    WellFormed.opcodeLegal 0x00 = false ∧ WellFormed.opcodeLegal 0xA0 = false ∧
    WellFormed.reservedZero 0x14 = false ∧ WellFormed.reservedZero 0x21 = false ∧
    WellFormed.selectorLegal 0x10 = false ∧ WellFormed.selectorLegal 0x50 = false ∧
    [0x00#8, 0xA0#8, 0x14#8, 0x21#8, 0x10#8, 0x50#8].any WellFormed.word = false := by decide

/-- R68: 13 of the 256 words are legal. -/
theorem test_thirteen_legal_words : (List.range 256).countP (fun n => WellFormed.word (BitVec.ofNat 8 n)) = 13 := by
  decide +kernel

/-- The words with a row, written out bit by bit from the opcode map of R66. -/
theorem test_decode_row_words :
    decodeOp 0b00010001 = .ok (.select .AH) ∧ decodeOp 0b00010010 = .ok (.select .IN) ∧
    decodeOp 0b00010011 = .ok (.select .CMD) ∧ decodeOp 0b01010001 = .ok (.readRow .AH) ∧
    decodeOp 0b01010010 = .ok (.readRow .IN) ∧ decodeOp 0b01010011 = .ok (.readRow .CMD) := by decide

/-- The words without an operand, written out bit by bit from the opcode map of R66. -/
theorem test_decode_plain_words :
    decodeOp 0b00100000 = .ok .latch ∧ decodeOp 0b00110000 = .ok .sample ∧ decodeOp 0b01000000 = .ok .clock ∧
    decodeOp 0b01100000 = .ok .decode ∧ decodeOp 0b01110000 = .ok .advance ∧ decodeOp 0b10000000 = .ok .guard ∧
    decodeOp 0b10010000 = .ok .poll := by decide

/-- The refused words of section 2.1 of the vectors, with each clause of DecoderChecksInOrder at the ends of its
range. -/
theorem test_witness_decoder_refuses :
    [0x00#8, 0xA0#8, 0xF3#8, 0xFF#8].all (fun w => decide (decodeOp w = .error .illegalOpcode)) = true ∧
    [0x14#8, 0x1C#8, 0x17#8, 0x5F#8].all (fun w => decide (decodeOp w = .error .reservedBits)) = true ∧
    [0x21#8, 0x88#8, 0x9F#8].all (fun w => decide (decodeOp w = .error .reservedBits)) = true ∧
    [0x10#8, 0x50#8].all (fun w => decide (decodeOp w = .error .selectorLowLow)) = true := by decide

/-- `decodeTableWord` reads the first byte. -/
theorem test_decodeTableWord :
    decodeTableWord 8 0x53 = some (.readRow .CMD) ∧ decodeTableWord 8 0x10 = none ∧
    decodeTableWord 8 0x90 = some .poll := by decide

/-- A per-instruction law, used. -/
theorem test_readRow_word_is_legal : WellFormed.word (encode (.readRow .CMD)) = true :=
  (Laws.EncodesLegally.readRow .CMD).1

/-- Section 2.1, assembly to words; and three lines that are not of the grammar. -/
theorem test_witness_assembler :
    assembleLine "SELECT IN".toList = some [0x12] ∧ assembleLine "READROW CMD".toList = some [0x53] ∧
    assembleLine "POLL ; one cycle".toList = some [0x90] ∧ assembleLine "; only a comment".toList = some [] ∧
    assembleLine [] = some [] ∧ assembleLine "SELECT".toList = none ∧ assembleLine "POLL AH".toList = none ∧
    assembleLine "NOP".toList = none := by decide

/-! ### Tables -/

/-- MasksMatchTheTable at the ends of each row's used positions (R60, R83). -/
theorem test_witness_masks :
    posTable .AH 0 = some .H ∧ posTable .AH 7 = some .A ∧ posTable .IN 1 = none ∧ posTable .IN 2 = some .N ∧
    posTable .IN 7 = some .I ∧ posTable .CMD 0 = none ∧ posTable .CMD 1 = some .RON ∧ posTable .CMD 7 = some .SEL ∧
    (used .IN).getLsbD 1 = false ∧ (used .CMD).getLsbD 0 = false ∧ buttonIndex .CMD 7 = 23 := by decide

/-- KeyMap's last clause at its ends, and V-ADV rows 5 and 8 (R62). -/
theorem test_witness_keymap :
    used24.getLsbD 0 = true ∧ used24.getLsbD 23 = true ∧ keymap 0 = .char 'h' ∧ keymap 23 = .char '5' ∧
    keymap 17 = .char 'z' ∧ keymap 18 = .leftShift ∧ keymap 21 = .leftCtrl := by decide

/-- MicroprogramTable's `j` at 1 and 7, and V-AUTO's phases (R101). -/
theorem test_witness_microprogram :
    microprogram[3]? = some 0x40 ∧ microprogram[4]? = some 0x30 ∧ microprogram[15]? = some 0x40 ∧
    microprogram[16]? = some 0x30 ∧ microprogram[18]? = some 0x12 ∧ microprogram[19]? = some 0x20 ∧
    microprogram[52]? = some 0x30 ∧ microprogram[53]? = some 0x60 ∧ microprogram[54]? = some 0x70 ∧
    microprogram[55]? = some 0x80 := by decide

/-- PressedPositions and UnusedPositionsIgnored: V-DEC and W2, an unused position flipped. -/
theorem test_witness_pressed :
    pressed8 .AH 0xFE = 0x01 ∧ decodeRow .AH 0xAA = 0x000055 ∧ decodeRow .IN 0x03 = 0x00FC00 ∧
    decodeRow .CMD 0xFD = 0x020000 ∧ decodeRow .CMD 0xFE = 0 ∧
    (0x03 : Byte) &&& used .IN = 0 ∧ decodeRow .IN (0xFB ^^^ 0x03) = 0x000400 ∧
    (0x01 : Byte) &&& used .CMD = 0 ∧ decodeRow .CMD (0x00 ^^^ 0x01) = 0xFE0000 := by decide

/-! ### The sequencer -/

/-- StepRunsDecoded in each mode, and what is run: the first step of autonomous mode is SELECT AH (R125, V-SEL). -/
theorem test_witness_step_runs :
    (State.reset.stop = 0 ∧ State.reset.mode = .autonomous ∧ microprogram[State.reset.phase]? = some 0x11 ∧
      decodeOp 0x11 = .ok (.select .AH)) ∧
    peek (step State.reset) (fun t => (t.selAH, t.selIN, t.phase)) = some (.low, .high, 1) ∧
    ((power [0x80] []).stop = 0 ∧ (power [0x80] []).mode = .driven ∧
      (power [0x80] []).prog[(power [0x80] []).phase]? = some 0x80 ∧ decodeOp 0x80 = .ok .guard) ∧
    peek (step (power [0x80] [])) stopOf = some (0, 0x00, 0, 1) := by decide

/-- DecoderChecksInOrder's last clause for each refusal: P6, and section 2.6. -/
theorem test_witness_step_refuses :
    (power [0x10] []).stop = 0 ∧ (power [0x10] []).mode = .driven ∧
    peek (step (power [0x10] [])) stopOf = some (10, 0x10, 0, 0) ∧
    peek (step (power [0x1C] [])) stopOf = some (9, 0x1C, 0, 0) ∧
    peek (step (power [0xA0] [])) stopOf = some (8, 0xA0, 0, 0) := by decide

/-- StoppedBlockTakesNoStep, both clauses. -/
theorem test_witness_stopped :
    stoppedBlock.stop ≠ 0 ∧ (peek (exec .guard stoppedBlock) fun t => t.stop) = some 10 ∧
    nextState (step stoppedBlock) = none := by decide

/-- DrivenRunEnds: the empty run, and one that ran a word. -/
theorem test_witness_run_ends :
    (power [] []).complete = true ∧ ({ power [0x80] [] with phase := 1 } : State).complete = true ∧
    ({ power [0x80] [] with phase := 1, stop := 1 } : State).complete = false := by decide

/-- PhaseMovesByOne: the wrap at 55, a driven operation, and a stop. -/
theorem test_witness_phase :
    (peek (exec .guard (autonomousAt 55 [])) fun t => (t.stop, t.phase)) = some (0, 0) ∧
    (peek (exec .guard { power [] [] with phase := 55 }) fun t => (t.stop, t.phase)) = some (0, 56) ∧
    (peek (exec .sample { power [] [] with phase := 55 }) fun t => (t.stop, t.phase)) = some (2, 55) := by decide

/-- `withFetchWord` puts a word where the next step fetches it, from reset and inside a driven run. -/
theorem test_withFetchWord :
    (State.reset.withFetchWord 8 0x13).fetch = .word 0x13 ∧
    ({ power [0x80, 0x80] [] with phase := 1 } : State).withFetchWord 8 0x20 =
      { power [0x80, 0x20] [] with phase := 1 } ∧
    peek (step (State.reset.withFetchWord 8 0x70)) stopOf = some (7, 0x70, 0, 0) := by decide

/-! ### Row select and shift-register read -/

/-- SELECT, V-SEL: the drives in their order and where they end. -/
theorem test_select_drives :
    selectDrives .AH = [(.selIN, .high), (.selAH, .low)] ∧ selectDrives .IN = [(.selAH, .high), (.selIN, .low)] ∧
    selectDrives .CMD = [(.selAH, .high), (.selIN, .high)] ∧
    (peek (exec (.select .IN) (power [] [])) fun t => (t.selAH, t.selIN)) = some (.high, .low) := by decide

/-- SelectDrivesItsRow at NREAD 0 and 8, and 1 and 7; P7's stop. -/
theorem test_witness_select :
    ¬(1 ≤ (power [] []).nread.toNat ∧ (power [] []).nread.toNat ≤ 7) ∧
    ¬(1 ≤ (reading 0x01 7 8).nread.toNat ∧ (reading 0x01 7 8).nread.toNat ≤ 7) ∧
    (1 ≤ (reading 0x00 0 1).nread.toNat ∧ (reading 0x00 0 1).nread.toNat ≤ 7) ∧
    (1 ≤ (reading 0x00 7 7).nread.toNat ∧ (reading 0x00 7 7).nread.toNat ≤ 7) ∧
    (peek (exec (.select .CMD) (reading 0x01 7 8)) fun t => (t.selAH, t.selIN)) = some (.high, .high) ∧
    (peek (exec (.select .IN) (reading 0x00 0 1)) fun t => (t.stop, t.stopOp, t.selAH, t.nread)) =
      some (1, 0x12, .low, 1) := by decide

/-- SelectNeverDrivesLowLow halfway through a change from AH to IN (V-SEL). -/
theorem test_witness_select_halfway :
    ¬((reading 0x00 0 0).selAH = .low ∧ (reading 0x00 0 0).selIN = .low) ∧
    ((reading 0x00 0 0).driveAll ((selectDrives .IN).take 1)).selAH = .high ∧
    ((reading 0x00 0 0).driveAll ((selectDrives .IN).take 1)).selIN = .high := by decide

/-- LatchCapturesTheRow: V-RMOK, from reset (CMD) and after a whole row read (AH again); V-RMF, during a read. -/
theorem test_witness_latch :
    (¬(1 ≤ (power [] [0xFD]).nread.toNat ∧ (power [] [0xFD]).nread.toNat ≤ 7) ∧
      ((power [] [0xFD]).selAH, (power [] [0xFD]).selIN) = Row.levels .CMD) ∧
    (peek (exec .latch (power [] [0xFD])) fun t => (t.sr, readOf t)) =
      some (0xFD, ⟨true, some .CMD, 0, 0⟩) ∧
    ((reading 0x01 7 8).selAH, (reading 0x01 7 8).selIN) = Row.levels .AH ∧
    (peek (exec .latch { reading 0x01 7 8 with env := { pins := [0x5A], serial := [], count := 0 } })
      fun t => (t.sr, readOf t, t.lat, t.env.pins)) = some (0x5A, ⟨true, some .AH, 0, 0⟩, .low, []) ∧
    (peek (exec .latch (reading 0x00 0 1)) fun t => (t.stop, t.stopOp, t.nread)) = some (1, 0x20, 1) := by
  and_intros <;> decide

/-- SampleReadsTheDataLine: V-READ's first and last SAMPLE, and V-RMF's three stops. -/
theorem test_witness_sample :
    (reading 0xFE 0 0).srValid = true ∧ (reading 0xFE 0 0).nread.toNat = (reading 0xFE 0 0).k.toNat ∧
    (reading 0x01 7 7).nread.toNat = (reading 0x01 7 7).k.toNat ∧
    (peek (exec .sample { reading 0xFE 0 0 with raw := bitsOfByte 0xFF }) fun t => (rawByte t.raw, t.nread, t.k)) =
      some (0xFE, 1, 0) ∧
    (peek (exec .sample { reading 0x01 7 7 with raw := bitsOfByte 0x7E }) fun t => (rawByte t.raw, t.nread, t.k)) =
      some (0xFE, 8, 7) ∧
    (power [] []).srValid = false ∧ peek (exec .sample (power [] [])) stopOf = some (2, 0x30, 0, 0) ∧
    (reading 0x00 0 1).nread.toNat ≠ (reading 0x00 0 1).k.toNat ∧
    peek (exec .sample (reading 0x00 0 1)) stopOf = some (3, 0x30, 0, 0) ∧
    peek (exec .sample (reading 0x01 7 8)) stopOf = some (3, 0x30, 0, 0) := by decide

/-- ClockShiftsTheRegister: V-READ's first and last CLOCK, the serial draw entering at SR[7], and V-RMF's stops. -/
theorem test_witness_clock :
    ((reading 0xFE 0 1).srValid = true ∧ (reading 0xFE 0 1).k ≠ 7 ∧
      (reading 0xFE 0 1).nread.toNat = (reading 0xFE 0 1).k.toNat + 1) ∧
    ((reading 0x03 6 7).k ≠ 7 ∧ (reading 0x03 6 7).nread.toNat = (reading 0x03 6 7).k.toNat + 1) ∧
    (peek (exec .clock (reading 0xFE 0 1)) fun t => (t.sr, t.k, t.nread, t.clk)) = some (0x7F, 1, 1, .low) ∧
    (peek (exec .clock (reading 0x03 6 7)) fun t => (t.sr, t.k, t.nread)) = some (0x01, 7, 7) ∧
    (peek (exec .clock { reading 0xFE 0 1 with env := { pins := [], serial := [true], count := 0 } })
      fun t => (t.sr, t.env.serial)) = some (0xFF, []) ∧
    peek (exec .clock (power [] [])) stopOf = some (2, 0x40, 0, 0) ∧
    (reading 0x00 0 0).nread.toNat ≠ (reading 0x00 0 0).k.toNat + 1 ∧
    peek (exec .clock (reading 0x00 0 0)) stopOf = some (4, 0x40, 0, 0) ∧
    (reading 0x01 7 8).k = 7 ∧ peek (exec .clock (reading 0x01 7 8)) stopOf = some (4, 0x40, 0, 0) := by
  and_intros <;> decide

/-- DataFollowsTheRegister: V-READ's DATA column. -/
theorem test_witness_data :
    (reading 0xFE 0 0).srValid = true ∧ (reading 0xFE 0 0).dataLevel = .low ∧
    (reading 0x7F 1 1).dataLevel = .high := by decide

/-- ReadRowResult and ReadRowIsItsExpansion: V-READ, and V-RMF's interleaved READROW. -/
theorem test_witness_readRow :
    ((power [] [0xFE]).stop = 0 ∧ ¬(1 ≤ (power [] [0xFE]).nread.toNat ∧ (power [] [0xFE]).nread.toNat ≤ 7)) ∧
    (peek (exec (.readRow .AH) (power [] [0xFE])) fun t => (rawByte t.raw, t.sr, readOf t)) =
      some (0xFE, 0x01, ⟨true, some .AH, 7, 8⟩) ∧
    (1 ≤ (reading 0x00 0 1).nread.toNat ∧ (reading 0x00 0 1).nread.toNat ≤ 7) ∧
    (peek (exec (.readRow .IN) (reading 0x00 0 1)) fun t => (t.stop, t.stopOp)) = some (1, 0x12) := by decide

/-- READROW, V-ROW's third and fourth lines. -/
theorem test_readRow_rows :
    (peek (exec (.readRow .CMD) (power [] [0xFD])) fun t => (rawByte t.raw, t.selAH, t.selIN)) =
      some (0xFD, .high, .high) ∧
    (peek (exec (.readRow .IN) (power [] [0xA5])) fun t => (rawByte t.raw, t.selAH, t.selIN)) =
      some (0xA5, .high, .low) := by decide

/-! ### The decoder -/

/-- DecodeAddsTheRow, each clause: V-DECOP, with all three rows in their turn. -/
theorem test_witness_decode :
    ((rowRead .AH 0xFE 0b000).nread = 8 ∧ (rowRead .AH 0xFE 0b000).lrow = some .AH) ∧
    (peek (exec .decode (rowRead .AH 0xFE 0b000)) fun t => (t.snap, t.snapv)) = some (0x000001, 0b001) ∧
    (peek (exec .decode (rowRead .IN 0xFB 0b001)) fun t => (t.snap, t.snapv)) = some (0x000400, 0b011) ∧
    (peek (exec .decode (rowRead .CMD 0xFD 0b011)) fun t => (t.snap, t.snapv)) = some (0x020000, 0b111) ∧
    (reading 0x01 7 7).nread ≠ 8 ∧ peek (exec .decode (reading 0x01 7 7)) stopOf = some (5, 0x60, 0, 0) ∧
    peek (exec .decode (power [] [])) stopOf = some (5, 0x60, 0, 0) ∧
    (rowRead .AH 0xFE 0b001).snapv ≠ 0b000 ∧
    peek (exec .decode (rowRead .AH 0xFE 0b001)) stopOf = some (6, 0x60, 0, 0) ∧
    peek (exec .decode (rowRead .CMD 0xFF 0b001)) stopOf = some (6, 0x60, 0, 0) := by
  and_intros <;> decide

/-- SnapshotIsTheUnion: P2's snapshot after its third DECODE. -/
theorem test_witness_union :
    (power [] [0xFF, 0xFF, 0xFD]).stop = 0 ∧
    ((power [] [0xFF, 0xFF, 0xFD]).nread = 0 ∧ (power [] [0xFF, 0xFF, 0xFD]).snapv = 0b000) ∧
    cycleSnapshot (power [] [0xFF, 0xFF, 0xFD]).env = 0x020000 := by decide

/-! ### The press-state machine -/

/-- AdvanceTransition, each clause: V-ADV rows 6, 3 and 4, and V-ADVF. -/
theorem test_witness_advance :
    ((snapped 0x000001 0x000002 (some (.char 'h'))).snap ≠ 0 ∧
      (snapped 0x000001 0x000002 (some (.char 'h'))).params.pressOrder = .ascending) ∧
    (peek (exec .advance (snapped 0x000001 0x000002 (some (.char 'h')))) pressOf) =
      some ⟨[.press (.char 'g')], 0x000003, true, some (.char 'g'), 0x000002, 0⟩ ∧
    (peek (exec .advance (snapped 0x000001 0 (some (.char 'h')))) pressOf) =
      some ⟨[.releaseAll], 0, false, none, 0, 0x000001⟩ ∧
    (peek (exec .advance (snapped 0 0 none)) pressOf) = some ⟨[.releaseAll], 0, false, none, 0, 0⟩ ∧
    (power [] []).snapv ≠ 0b111 ∧ peek (exec .advance (power [] [])) stopOf = some (7, 0x70, 0, 0) := by
  and_intros <;> decide

/-- ADVANCE, V-ADV row 8: two keys named by modifiers, in ascending order. -/
theorem test_advance_modifiers :
    (peek (exec .advance (snapped 0 0x240000 none)) fun t => (t.out, t.lastKey, t.snap, t.snapv)) =
      some ([.press .leftShift, .press .leftCtrl], some .leftCtrl, 0, 0b000) := by decide

/-- PressOrderReadings, under any order: the free order of V-ADV row 8 has both keys whatever it is. -/
theorem test_witness_any_order :
    (snapped 0 0x240000 none).snapv = 0b111 ∧ (snapped 0 0x240000 none).snap ≠ 0 ∧
    (pressSequence .any 0 0x240000).Perm [18, 21] ∧ [21, 18].Perm (ascendingButtons 0x240000) ∧
    permuteBy (fun n => n) 2 (ascendingButtons 0x240000) = [21, 18] :=
  ⟨by decide, by decide, (pressSequence_perm .any 0 0x240000).trans
    (by rw [show buttonsOf 0x240000 = [18, 21] by decide]), by decide, by decide⟩

/-- ReleaseAllReadings: V-ADV row 4 under RELEASE_ALL_ONLY_IF_ACTIVE, and row 3, which it does not change. -/
theorem test_witness_release_readings :
    ((snapped 0 0 none).snapv = 0b111 ∧ (snapped 0 0 none).snap = 0) ∧
    (peek (exec .advance { snapped 0 0 none with
      params := { releaseAllOnlyIfActive := true, pressOrder := .ascending } }) fun t => t.out) = some [] ∧
    (peek (exec .advance { snapped 0x000001 0 none with
      params := { releaseAllOnlyIfActive := true, pressOrder := .ascending } }) fun t => t.out) =
      some [.releaseAll] ∧
    PressAgrees (snapped 0 0 none) ∧ PressAgrees (snapped 0x000001 0 (some (.char 'h'))) := by
  unfold PressAgrees
  decide

/-- GuardWaitsWhileAny, both clauses: V-GRD. -/
theorem test_witness_guard :
    (snapped 0x000001 0 none).any = true ∧
    (peek (exec .guard (snapped 0x000001 0 none)) fun t => t.out) = some [.delay .guardDelay] ∧
    (power [] []).any = false ∧ (peek (exec .guard (power [] [])) fun t => t.out) = some [] := by decide

/-- HoldUntilFullyClear: P4's snapshots of H and G, with H active; and V-ADV row 7, where G stays active. -/
theorem test_witness_hold :
    (∀ v ∈ [0x000003#24, 0x000002#24, 0x000003#24], v ≠ 0 ∧ v &&& ~~~used24 = 0) ∧
    (snapped 0x000001 0 (some (.char 'h'))).active &&& ~~~used24 = 0 ∧
    peek (exec .advance (snapped 0x000003 0x000001 (some (.char 'g')))) pressOf =
      some ⟨[], 0x000003, true, some (.char 'g'), 0, 0⟩ := by
  refine ⟨?_, by decide, by decide⟩
  simp only [List.forall_mem_cons, List.not_mem_nil, false_implies, implies_true]
  decide

/-- NoDuplicatePresses: W3's snapshot of H and B, twice. -/
theorem test_witness_no_duplicates :
    (0x000041#24) ≠ 0 ∧
    (peek (advanceAll [0x000041, 0x000041] (power [] [])) fun t => (t.out, t.pressedOut)) =
      some ([.press (.char 'h'), .press (.char 'b')], 0) := by decide

/-- ReleaseCompleteness: W4. -/
theorem test_witness_release :
    (0x000002#24) ≠ 0 ∧
    (peek (advanceAll [0x000002, 0] (snapped 0x000001 0 (some (.char 'h')))) fun t => (t.releasedOut, t.active)) =
      some (0x000003, 0) := by decide

/-- PressHoldReleaseRoundTrip: W5 with RON and n = 1, and the first and last button. -/
theorem test_witness_round_trip :
    (17 < 24 ∧ (power [] []).stop = 0 ∧ (power [] []).active = 0) ∧ (0 < 24 ∧ 23 < 24) ∧
    (peek (advanceGuardAll [0x020000, 0x020000, 0] (power [] [])) fun t => t.out) =
      some [.press (.char 'z'), .delay .guardDelay, .delay .guardDelay, .releaseAll] := by decide

/-- R120: what the transport is sent for P3's trace. -/
theorem test_transport :
    transportCalls [.press (.char 'h'), .delay .guardDelay, .releaseAll] = [.press (.char 'h'), .releaseAll] := by
  decide

/-! ### The cycle -/

/-- PollIsItsExpansion, each clause: P1, and both lines of V-POLLF. -/
theorem test_witness_poll :
    ((power [] [0xFE, 0xFF, 0xFF]).stop = 0 ∧ (power [] [0xFE, 0xFF, 0xFF]).nread = 0 ∧
      (power [] [0xFE, 0xFF, 0xFF]).snapv = 0b000) ∧
    (peek (exec .poll (power [] [0xFE, 0xFF, 0xFF])) pressOf) =
      some ⟨[.press (.char 'h'), .delay .guardDelay], 0x000001, true, some (.char 'h'), 0x000001, 0⟩ ∧
    (1 ≤ (reading 0x00 0 1).nread.toNat ∧ (reading 0x00 0 1).nread.toNat ≤ 7) ∧
    (peek (exec .poll (reading 0x00 0 1)) fun t => (t.stop, t.stopOp)) = some (1, 0x11) ∧
    ((rowRead .AH 0xFE 0b001).nread = 8 ∧ (rowRead .AH 0xFE 0b001).snapv ≠ 0b000) ∧
    (peek (exec .poll { rowRead .AH 0xFE 0b001 with env := (power [] [0x7F]).env })
      fun t => (t.stop, t.stopOp, rawByte t.raw, t.snapv)) = some (6, 0x60, 0x7F, 0b001) := by
  and_intros <;> decide

/-- POLL, P1: the registers it leaves; and the last line but two of V-POLL. -/
theorem test_poll_registers :
    (peek (exec .poll (power [] [0xFE, 0xFF, 0xFF]))
      fun t => (rawByte t.raw, readOf t, t.sr.getLsbD 0, t.snapv)) = some (0xFF, ⟨true, some .CMD, 7, 8⟩, true, 0b000) ∧
    (peek (exec .poll (power [] [0xFF, 0xFF, 0xF7])) fun t => (t.out, t.active)) =
      some ([.press (.char ' '), .delay .guardDelay], 0x080000) := by
  and_intros <;> decide

/-- AutonomousCycleIsPoll and AutonomousCycleInSum: a block at the start of its loop, with the draws of P1 and with
none pressed. -/
theorem test_witness_autonomous_cycle :
    ((autonomousAt 0 [0xFE, 0xFF, 0xFF]).mode = .autonomous ∧ (autonomousAt 0 [0xFE, 0xFF, 0xFF]).stop = 0 ∧
      (autonomousAt 0 [0xFE, 0xFF, 0xFF]).phase = 0 ∧ (autonomousAt 0 [0xFE, 0xFF, 0xFF]).nread = 0 ∧
      (autonomousAt 0 [0xFE, 0xFF, 0xFF]).snapv = 0b000 ∧
      (autonomousAt 0 [0xFE, 0xFF, 0xFF]).params.pressOrder = .ascending) ∧
    cycleSnapshot (autonomousAt 0 [0xFE, 0xFF, 0xFF]).env = 0x000001 ∧
    cycleSnapshot (autonomousAt 0 [0xFF, 0xFC, 0xFE]).env = 0 := by decide

/-- AutonomousModeNeverStops: a state that stands in the cycle at the third SAMPLE of row IN, and one at ADVANCE. -/
theorem test_witness_in_cycle :
    InCycle { autonomousAt 24 [] with
      selIN := .low, srValid := true, lrow := some .IN, k := 2, nread := 2, snapv := 0b001 } ∧
    InCycle { autonomousAt 54 [] with srValid := true, lrow := some .CMD, k := 7, nread := 8, snapv := 0b111 } := by
  constructor
  · exact ⟨rfl, rfl, by decide, fun _ => ⟨by decide, by decide, by decide, by decide, by decide⟩,
      fun h => absurd h (by decide), fun h => absurd h (by decide)⟩
  · exact ⟨rfl, rfl, by decide, fun h => absurd h (by decide), fun _ => ⟨by decide, by decide⟩,
      fun h => absurd h (by decide)⟩

/-- UnusedPinsNeverReachTheHost: draws that differ at the unused positions of IN and CMD only (V-POLL's third line). -/
theorem test_witness_unused_pins :
    ((power [] [0xFF, 0xFF, 0xFF]).nread = 0 ∧ (power [] [0xFF, 0xFF, 0xFF]).snapv = 0b000 ∧
      (power [] [0xFF, 0xFF, 0xFF]).env.pins = [0xFF, 0xFF, 0xFF] ++ []) ∧
    (0xFF : Byte) &&& used .IN = 0xFC &&& used .IN ∧ (0xFF : Byte) &&& used .CMD = 0xFE &&& used .CMD ∧
    (peek (exec .poll (power [] [0xFF, 0xFC, 0xFE])) fun t => (t.out, t.active)) = some ([.releaseAll], 0) := by decide

/-! ### Stops, frames and invariants -/

/-- StopIsPrecise, and the frames of the micro-operations: each of SELECT, LATCH, SAMPLE, CLOCK, DECODE, ADVANCE and
GUARD has a state it completes in, and P5's ninth read stops. -/
theorem test_witness_stop_and_frames :
    [Instr.select .AH, .latch, .readRow .IN, .guard, .poll].all
      (fun i => (nextState (exec i (power [] [0xFE, 0xFF, 0xFF]))).isSome) = true ∧
    (nextState (exec .sample (reading 0xFE 0 0))).isSome = true ∧
    (nextState (exec .clock (reading 0xFE 0 1))).isSome = true ∧
    (nextState (exec .decode (rowRead .AH 0xFE 0b000))).isSome = true ∧
    (nextState (exec .advance (snapped 0 0x000001 none))).isSome = true ∧
    peek (exec .sample { reading 0x01 7 8 with phase := 1 }) stopOf = some (3, 0x30, 1, 1) := by decide

/-- StepKeepsInv and OnlyTerminalStatesHaveNoStep: a state in the middle of a row read, with H held, that meets the
invariants and has a next step. -/
theorem test_witness_invariants :
    let s : State := { power [0x40] [] with
      selAH := .low, sr := 0xFE, srValid := true, k := 0, nread := 1, lrow := some .AH, active := 0x000001, any := true,
      lastKey := some (.char 'h'), releasedOut := 0, pressedOut := 0x000001 }
    MachineInv s ∧ (nextState (step s)).isSome = true ∧ s.complete = false := by
  refine ⟨⟨?_, ⟨rfl, rfl⟩, ⟨by decide, by decide, .inr (by decide), fun h => absurd h (by decide), fun _ => by decide⟩,
    ⟨by decide, by decide, ?_⟩, .inl rfl, ⟨by decide, by decide⟩, ?_, ⟨?_, fun _ => by decide⟩, ?_⟩, by decide, by decide⟩
  · rintro ⟨-, h⟩
    exact absurd h (by decide)
  · intro r _
    cases r <;> decide
  · show (0x000001#24) &&& 0 = 0
    decide
  · intro h
    exact absurd h (by decide)
  · show (0#4).toNat ≤ 10
    decide

end Sys2Proof.Tests
end

section
/-! SUPPORT. The decoder check by check, the fetch and the stop of a refused word, the selector field and the key-code
map: O2, O4 and O6 (spec/30_encoding.md R53, R62, R65 to R67). -/

namespace Sys2Proof.Machine

/-! ### The decoder's checks in their order (R67) -/

theorem opcodeOf_toNat (w : OpWord) : (opcodeOf w).toNat = w.toNat / 16 := by
  have hw : w.toNat < 256 := w.isLt
  simp only [opcodeOf, BitVec.extractLsb'_toNat, Nat.shiftRight_eq_div_pow]
  omega

theorem operandOf_toNat (w : OpWord) : (operandOf w).toNat = w.toNat % 16 := by
  simp [operandOf]

/-- The reserved bits of a word that takes a row are bits 3 and 2 (R65). -/
theorem reservedBits_toNat (w : OpWord) : ((operandOf w).extractLsb' 2 2).toNat = w.toNat % 16 / 4 := by
  simp only [BitVec.extractLsb'_toNat, operandOf_toNat, Nat.shiftRight_eq_div_pow]
  omega

theorem opcodeOf_eq_iff (w : OpWord) (c : BitVec 4) : opcodeOf w = c ↔ w.toNat / 16 = c.toNat := by
  rw [← BitVec.toNat_inj, opcodeOf_toNat]

theorem operandOf_eq_zero_iff (w : OpWord) : operandOf w = 0 ↔ w.toNat % 16 = 0 := by
  rw [← BitVec.toNat_inj, operandOf_toNat]
  rfl

/-- The first check fails exactly at the opcodes that stand for no operation. -/
theorem opcodeOf_illegal_iff (w : OpWord) :
    (opcodeOf w = 0x0 ∨ 0xA ≤ opcodeOf w) ↔ (w.toNat / 16 = 0 ∨ 10 ≤ w.toNat / 16) := by
  rw [opcodeOf_eq_iff, BitVec.le_def, opcodeOf_toNat]
  rfl

theorem opcodeOf_takesRow_iff (w : OpWord) :
    (opcodeOf w = 0x1 ∨ opcodeOf w = 0x5) ↔ (w.toNat / 16 = 1 ∨ w.toNat / 16 = 5) := by
  rw [opcodeOf_eq_iff, opcodeOf_eq_iff]
  rfl

theorem decodeOp_of_illegalOpcode {w : OpWord} (h : w.toNat / 16 = 0 ∨ 10 ≤ w.toNat / 16) :
    decodeOp w = .error .illegalOpcode :=
  if_pos ((opcodeOf_illegal_iff w).2 h)

/-- The first check passes at the opcodes 0x1 to 0x9. -/
theorem opcodeOf_legal {w : OpWord} (h1 : 1 ≤ w.toNat / 16) (h9 : w.toNat / 16 ≤ 9) :
    ¬(opcodeOf w = 0x0 ∨ 0xA ≤ opcodeOf w) := by
  rw [opcodeOf_illegal_iff]
  omega

theorem decodeOp_of_reservedBits {w : OpWord} (h : w.toNat / 16 = 1 ∨ w.toNat / 16 = 5)
    (hr : w.toNat % 16 / 4 ≠ 0) : decodeOp w = .error .reservedBits := by
  have legal := opcodeOf_legal (w := w) (by omega) (by omega)
  have reserved : (operandOf w).extractLsb' 2 2 ≠ 0 := by
    rw [Ne, ← BitVec.toNat_inj, reservedBits_toNat]
    exact hr
  exact (if_neg legal).trans ((if_pos ((opcodeOf_takesRow_iff w).2 h)).trans (if_pos reserved))

/-- The only words that take a row and have an operand of 0 are SELECT and READROW of the selector 0b00. -/
theorem decodeOp_of_selectorLowLow {w : OpWord} (h : w.toNat / 16 = 1 ∨ w.toNat / 16 = 5)
    (ho : w.toNat % 16 = 0) : decodeOp w = .error .selectorLowLow := by
  have hw : w = 0x10 ∨ w = 0x50 := by bv_omega
  obtain rfl | rfl := hw <;> rfl

theorem decodeOp_of_nonzeroOperand {w : OpWord} (h2 : 2 ≤ w.toNat / 16) (h9 : w.toNat / 16 ≤ 9)
    (h5 : w.toNat / 16 ≠ 5) (ho : w.toNat % 16 ≠ 0) : decodeOp w = .error .reservedBits := by
  have legal := opcodeOf_legal (w := w) (by omega) h9
  have plain : ¬(opcodeOf w = 0x1 ∨ opcodeOf w = 0x5) := by
    rw [opcodeOf_takesRow_iff]
    omega
  have operand : operandOf w ≠ 0 := mt (operandOf_eq_zero_iff w).1 ho
  exact (if_neg legal).trans ((if_neg plain).trans (if_pos operand))

/-! ### The step on a refused word (R67, R102, R103) -/

theorem State.fetch_autonomous {s : State} {w : OpWord} (hm : s.mode = .autonomous)
    (hw : microprogram[s.phase]? = some w) : s.fetch = .word w := by
  rw [State.fetch, hm]
  simp only [hw]

/-- A driven run that has a word at PHASE is not at its end. -/
theorem State.fetch_driven {s : State} {w : OpWord} (hm : s.mode = .driven)
    (hw : s.prog[s.phase]? = some w) : s.fetch = .word w := by
  obtain ⟨hlt, -⟩ := List.getElem?_eq_some_iff.1 hw
  rw [State.fetch, hm]
  simp only [hw, if_neg hlt.ne]

theorem step_of_refused {s : State} {w : OpWord} {c : DecodeRefusal} (h0 : s.stop = 0)
    (hf : s.fetch = .word w) (hd : decodeOp w = .error c) : step s = .next (s.refuseWord c w) := by
  rw [step, if_neg (not_not.2 h0), hf]
  simp only [hd]

/-- Settles O2: each refusal by the check that decides it, the legal words by evaluation, and the stop by fetching the
refused word in either mode. -/
theorem decoderChecksInOrder : Obligations.DecoderChecksInOrder := by
  refine ⟨fun _ => decodeOp_of_illegalOpcode, fun _ => decodeOp_of_reservedBits,
    fun _ => decodeOp_of_selectorLowLow, fun _ => decodeOp_of_nonzeroOperand,
    rfl, rfl, rfl, rfl, rfl, rfl, rfl, rfl, rfl, rfl, rfl, rfl, rfl, ?_⟩
  intro s w c h0 hfetch hd
  have hf : s.fetch = .word w := by
    obtain ⟨hm, hw⟩ | ⟨hm, hw⟩ := hfetch
    · exact State.fetch_autonomous hm hw
    · exact State.fetch_driven hm hw
  rw [step_of_refused h0 hf hd]
  cases c <;> rfl

/-! ### The row selector (R53 to R56) -/

@[simp] theorem Level.ofBit_bit (l : Level) : Level.ofBit l.bit = l := by cases l <;> rfl

theorem Row.selector_getLsbD_one (r : Row) : r.selector.getLsbD 1 = r.levels.1.bit := by
  cases r <;> rfl

theorem Row.selector_getLsbD_zero (r : Row) : r.selector.getLsbD 0 = r.levels.2.bit := by
  cases r <;> rfl

@[simp] theorem rowOfSelector_selector (r : Row) : rowOfSelector r.selector = some r := by
  rw [rowOfSelector, Row.selector_getLsbD_one, Row.selector_getLsbD_zero, Level.ofBit_bit, Level.ofBit_bit,
    selRow_levels]

/-- A row's levels select it, and (LOW, LOW) selects none (R56). -/
theorem Row.levels_ne_low_low (r : Row) : r.levels ≠ (.low, .low) := by
  intro h
  have hrow : selRow .low .low = some r := selRow_eq_some.2 h
  cases hrow

/-- Settles O4: the pair and the field of a row both give the row back, since the field's bits are the pair's levels. -/
theorem selectorLevels : Obligations.SelectorLevels :=
  ⟨rfl, rfl, rfl, rfl, rfl, rfl,
    fun r => ⟨selRow_levels r, rowOfSelector_selector r⟩,
    fun r => ⟨Row.selector_getLsbD_one r, Row.selector_getLsbD_zero r⟩,
    Row.levels_ne_low_low, rfl, rfl, rfl, rfl, rfl⟩

/-! ### The key-code map (R62) -/

/-- The 21 slots that carry a button have 21 different key codes. -/
theorem map_keymap_used24_nodup : ((buttonsOf used24).map keymap).Nodup := by decide

theorem keymap_injOn_used24 {b c : Nat} (hb : used24.getLsbD b = true) (hc : used24.getLsbD c = true)
    (h : keymap b = keymap c) : b = c :=
  List.inj_on_of_nodup_map map_keymap_used24_nodup (mem_buttonsOf.2 hb) (mem_buttonsOf.2 hc) h

/-- Settles O6: the listed codes by evaluation, and one-to-one because the codes of the used slots do not repeat. -/
theorem keyMap : Obligations.KeyMap :=
  ⟨rfl, rfl, rfl, fun _ _ => keymap_injOn_used24⟩

end Sys2Proof.Machine
end

section
/-! SUPPORT. SELECT, LATCH, SAMPLE, CLOCK and READROW as operations: O14 to O18 and O21 (spec/40_row_mux.md R75 to R79,
R82). -/

namespace Sys2Proof.Machine

/-! ### The words that take a row, and the outcome of a stop -/

theorem encode_select (r : Row) : encode (.select r) = 0x10 ||| r.selector.zeroExtend 8 := by
  cases r <;> rfl

theorem encode_readRow (r : Row) : encode (.readRow r) = 0x50 ||| r.selector.zeroExtend 8 := by
  cases r <;> rfl

/-- The next state of an operation that stops. -/
theorem exec_of_stopped {i : Instr} {s t : State} (h : microOf i s = .stopped t) : exec i s = .next t := by
  rw [exec_eq_finish, h, MicroResult.finish_stopped]

/-! ### The drives of SELECT on the way (R82) -/

/-- Each line going HIGH is driven before each line going LOW. -/
theorem selectDrives_high_first (r : Row) :
    (selectDrives r).Pairwise fun a b => ¬(a.2 = .low ∧ b.2 = .high) := by
  cases r <;> decide

theorem selectDrives_length (r : Row) : (selectDrives r).length = 2 := by cases r <;> rfl

/-- The first drive takes to HIGH one line that the row has HIGH. The other line is then HIGH, or at the row's level, or
LOW where the row has it HIGH (CMD), and there the first line was HIGH before. -/
theorem select_pair_after_first_drive (r : Row) {s : State} (h : ¬(s.selAH = .low ∧ s.selIN = .low)) :
    let mid := s.driveAll ((selectDrives r).take 1)
    (mid.selAH, mid.selIN) = (s.selAH, s.selIN) ∨ (mid.selAH, mid.selIN) = r.levels ∨
      (mid.selAH, mid.selIN) = (.high, .high) := by
  cases r with
  | AH =>
    show (s.selAH, Level.high) = _ ∨ (s.selAH, Level.high) = (.low, .high) ∨ (s.selAH, Level.high) = _
    cases s.selAH <;> simp
  | IN =>
    show (Level.high, s.selIN) = _ ∨ (Level.high, s.selIN) = (.high, .low) ∨ (Level.high, s.selIN) = _
    cases s.selIN <;> simp
  | CMD =>
    show (Level.high, s.selIN) = _ ∨ (Level.high, s.selIN) = (.high, .high) ∨ (Level.high, s.selIN) = _
    cases hn : s.selIN with
    | low => cases ha : s.selAH with
      | low => exact absurd ⟨ha, hn⟩ h
      | high => simp
    | high => simp

/-- After any number of the drives the pair is the old one, the row's, or (HIGH, HIGH). -/
theorem select_pair_on_the_way (r : Row) {s : State} (n : Nat) (h : ¬(s.selAH = .low ∧ s.selIN = .low)) :
    let mid := s.driveAll ((selectDrives r).take n)
    (mid.selAH, mid.selIN) = (s.selAH, s.selIN) ∨ (mid.selAH, mid.selIN) = r.levels ∨
      (mid.selAH, mid.selIN) = (.high, .high) := by
  match n with
  | 0 => exact .inl rfl
  | 1 => exact select_pair_after_first_drive r h
  | n + 2 =>
    rw [List.take_of_length_le (by rw [selectDrives_length]; omega), State.driveAll_selectDrives]
    exact .inr (.inl rfl)

/-- Only the moves between AH and IN change both select lines. -/
theorem levels_both_differ_iff (q r : Row) :
    q.levels.1 ≠ r.levels.1 ∧ q.levels.2 ≠ r.levels.2 ↔ q = .AH ∧ r = .IN ∨ q = .IN ∧ r = .AH := by
  cases q <;> cases r <;> decide

/-- Settles O15: none of the three pairs a drive can leave is (LOW, LOW). -/
theorem selectNeverDrivesLowLow : Obligations.SelectNeverDrivesLowLow := by
  refine ⟨selectDrives_high_first, ?_, levels_both_differ_iff⟩
  intro r s n h mid
  have pairs : (mid.selAH, mid.selIN) = (s.selAH, s.selIN) ∨ (mid.selAH, mid.selIN) = r.levels ∨
      (mid.selAH, mid.selIN) = (.high, .high) := select_pair_on_the_way r n h
  refine ⟨pairs, fun ⟨ha, hn⟩ => ?_⟩
  rw [ha, hn] at pairs
  obtain old | new | high := pairs
  · exact h ⟨(congrArg Prod.fst old).symm, (congrArg Prod.snd old).symm⟩
  · exact Row.levels_ne_low_low r new.symm
  · cases high

/-! ### READROW (R79) -/

/-- Settles O21: READROW is its micro-operations at one PHASE, and no operation depends on the PHASE it runs at. -/
theorem readRowIsItsExpansion : Obligations.ReadRowIsItsExpansion := by
  refine ⟨?_, ?_, fun _ => rfl, encode_readRow, decodeOp_of_selectorLowLow (by decide) (by decide)⟩
  · intro r s h0 h
    obtain ⟨t, hdone, hread⟩ := microReadRow_of_idle (r := r) (State.readInProgress_eq_false.2 h)
    obtain ⟨p, hrun⟩ := runOps_of_runMicros h0 ((microReadRow_eq_runMicros r s).symm.trans hdone)
    exact ⟨t.atPhase s.nextPhase, t.atPhase p, exec_of_done (i := .readRow r) hdone, hread.rest.1.trans h0, hrun,
      rfl⟩
  · intro r s h1 h7
    exact exec_of_stopped (i := .readRow r) (microReadRow_of_reading (State.readInProgress_iff.2 ⟨h1, h7⟩))

/-! ### SELECT and LATCH (R75, R76) -/

/-- Settles O14: the drives end at the row's levels, and the check of NREAD decides between them and the stop. -/
theorem selectDrivesItsRow : Obligations.SelectDrivesItsRow := by
  refine ⟨?_, fun r s => s.driveAll_selectDrives r, rfl, rfl, rfl, ?_, encode_select,
    decodeOp_of_selectorLowLow (by decide) (by decide)⟩
  · intro r s h
    exact exec_of_done (i := .select r) (microSelect_of_idle (State.readInProgress_eq_false.2 h))
  · intro r s h1 h7
    exact exec_of_stopped (i := .select r) (microSelect_of_reading (State.readInProgress_iff.2 ⟨h1, h7⟩))

/-- Settles O16: the row whose levels the lines hold is the row captured. -/
theorem latchCapturesTheRow : Obligations.LatchCapturesTheRow := by
  refine ⟨?_, ?_, rfl⟩
  · intro r s h hr
    exact ⟨_, exec_of_done (i := .latch) (microLatch_of_idle (State.readInProgress_eq_false.2 h) hr)⟩
  · intro s h1 h7
    exact exec_of_stopped (i := .latch) (microLatch_of_reading (State.readInProgress_iff.2 ⟨h1, h7⟩))

/-! ### SAMPLE and CLOCK (R77, R78) -/

/-- A read puts the level of DATA at bit NREAD of RAW and keeps the other bits (R77). -/
theorem readBit_raw_getLsbD (s : State) {j : Nat} (hj : j < 8) :
    (rawByte s.readBit.raw).getLsbD j = if j = s.nread.toNat then s.dataLevel.bit else (rawByte s.raw).getLsbD j := by
  rw [rawByte_getLsbD _ j hj, rawByte_getLsbD _ j hj, State.readBit_raw, Vector.getElem_setIfInBounds]
  simp only [eq_comm]

/-- Settles O17: with a latched register the level of DATA is the bit SR[0]. -/
theorem sampleReadsTheDataLine : Obligations.SampleReadsTheDataLine := by
  refine ⟨?_, ?_, ?_, rfl⟩
  · intro s hv hn
    refine ⟨s.readBit.raw, exec_of_done (i := .sample) (microSample_of_unread hv hn), fun j hj => ?_⟩
    rw [readBit_raw_getLsbD s hj, State.dataLevel_of_valid hv, Level.bit_ofBit]
  · intro s hv
    exact exec_of_stopped (i := .sample) (microSample_of_unlatched hv)
  · intro s hv hn
    exact exec_of_stopped (i := .sample) (microSample_of_misplaced hv hn)

/-- The serial draw enters at SR[7] (R74). -/
theorem shift_sr_getLsbD_seven (s : State) : s.shift.sr.getLsbD 7 = s.env.serialIn := by
  rw [State.shift_sr, BitVec.getLsbD_append]
  simp

/-- Every stage below SR[7] takes the next one's bit (R74). -/
theorem shift_sr_getLsbD_of_lt (s : State) {j : Nat} (hj : j < 7) : s.shift.sr.getLsbD j = s.sr.getLsbD (j + 1) := by
  rw [State.shift_sr, BitVec.getLsbD_append]
  simp [hj, Nat.add_comm]

/-- Settles O18: the register after the pulse is the shifted one, read stage by stage. -/
theorem clockShiftsTheRegister : Obligations.ClockShiftsTheRegister := by
  refine ⟨?_, ?_, ?_, rfl⟩
  · intro s hv hk hn
    exact ⟨s.shift.sr, exec_of_done (i := .clock) (microClock_of_read hv hk hn), shift_sr_getLsbD_seven s,
      fun _ => shift_sr_getLsbD_of_lt s⟩
  · intro s hv
    exact exec_of_stopped (i := .clock) (microClock_of_unlatched hv)
  · intro s hv hn
    exact exec_of_stopped (i := .clock) (microClock_of_misplaced hv hn)

end Sys2Proof.Machine
end

section
/-! SUPPORT. The decode function bit by bit and DECODE as an operation: O22 and O24 (spec/41_decoder.md R84, R85). -/

namespace Sys2Proof.Machine

/-! ### The decode function (R84) -/

/-- The mask of a row marks the positions to which the bit-position table gives a button (R60, R83). -/
theorem used_getLsbD (r : Row) {p : Nat} (hp : p < 8) : (used r).getLsbD p = (posTable r p).isSome := by
  have table : ∀ q : Row, ∀ c : Fin 8, (used q).getLsbD c = (posTable q c).isSome := by
    intro q
    cases q <;> decide
  exact table r ⟨p, hp⟩

theorem pressed8_getLsbD (r : Row) (bits : Byte) {p : Nat} (hp : p < 8) :
    (pressed8 r bits).getLsbD p = ((posTable r p).isSome && !bits.getLsbD p) := by
  rw [pressed8, BitVec.getLsbD_and, BitVec.getLsbD_not, used_getLsbD r hp, decide_eq_true hp, Bool.true_and,
    Bool.and_comm]

/-- Beyond bit 23 both sides are 0: the button vector has ended, and so has the byte of any row's slice. -/
theorem decodeRow_getLsbD (r : Row) (bits : Byte) (b : Nat) :
    (decodeRow r bits).getLsbD b =
      (decide (8 * rowIndex r ≤ b) && (pressed8 r bits).getLsbD (b - 8 * rowIndex r)) := by
  by_cases hb : b < 24
  · exact slice_getLsbD _ _ _ hb
  · have hr := rowIndex_le r
    have vector : (decodeRow r bits).getLsbD b = false := BitVec.getLsbD_of_ge _ _ (by omega)
    have byte : (pressed8 r bits).getLsbD (b - 8 * rowIndex r) = false := BitVec.getLsbD_of_ge _ _ (by omega)
    rw [vector, byte, Bool.and_false]

/-- Settles O22: a bit of the mask is the negated input bit under the row's mask, and a bit of the vector is the mask's
at its place in the row's slice. -/
theorem pressedPositions : Obligations.PressedPositions :=
  ⟨fun r bits _ => pressed8_getLsbD r bits, decodeRow_getLsbD⟩

/-! ### DECODE (R85) -/

/-- DECODE in a row's turn adds the row's slice and its SNAPV bit and moves PHASE, and that is all it does. -/
theorem exec_decode_of_ready {s : State} {r : Row} {v : BitVec 3} (hn : s.nread = 8) (hr : s.lrow = some r)
    (ho : s.snapv = decodedBefore r) (hv : decodedBefore r ||| (0b001#3 <<< rowIndex r) = v) :
    exec .decode s = .next
      { s with
        snap := writeSlice s.snap r (pressed8 r (rawByte s.raw))
        snapv := v
        phase := s.nextPhase } := by
  rw [exec_of_done (i := .decode) (microDecode_of_ready hn hr ho), ← hv, ← ho]
  rfl

/-- Settles O24: the slice written is the row's and no other's, and NREAD is checked before the order of the rows. -/
theorem decodeAddsTheRow : Obligations.DecodeAddsTheRow := by
  refine ⟨?_, ?_, ?_, rfl⟩
  · intro r s hn hr ho
    refine ⟨writeSlice s.snap r (pressed8 r (rawByte s.raw)), ?_, sliceOf_writeSlice_same _ _ _,
      fun q hq => sliceOf_writeSlice_other _ _ hq⟩
    exact exec_decode_of_ready hn hr ho (snapv_after_row r)
  · intro s hn
    exact exec_of_stopped (i := .decode) (microDecode_of_incomplete hn)
  · intro r s hn hr ho
    exact exec_of_stopped (i := .decode) (microDecode_of_disordered hn hr ho)

end Sys2Proof.Machine
end

section
/-! SUPPORT. The buttons of a vector in their orders, and ADVANCE and GUARD as operations: O26 to O29
(spec/42_debounce_fsm.md R89 to R93). -/

namespace Sys2Proof.Machine

/-! ### The orders of the new buttons (R90) -/

/-- The model's list of a vector's buttons is the statements' own. -/
theorem ascendingButtons_eq_buttonsOf (v : ButtonVec) : ascendingButtons v = buttonsOf v := by
  rw [buttonsOf, ← List.map_coe_finRange_eq_range, List.filter_map, ← List.filterMap_eq_map,
    List.filterMap_filter]
  rfl

theorem buttonsOf_pairwise_lt (v : ButtonVec) : (buttonsOf v).Pairwise (· < ·) := List.pairwise_lt_range.filter _

/-- An order of `n` buttons asks for the picks below `n` alone. -/
theorem permuteBy_congr {p q : Nat → Nat} {n : Nat} (h : ∀ m < n, p m = q m) (l : List Nat) :
    permuteBy p n l = permuteBy q n l := by
  induction n generalizing l with
  | zero => rfl
  | succ n ih =>
    have tail : permuteBy p n = permuteBy q n := funext (ih fun m hm => h m (by omega))
    rw [permuteBy, permuteBy, h n (by omega), tail]

/-- Picking the place of a button of the list puts it first. -/
theorem permuteBy_idxOf {pick : Nat → Nat} {n b : Nat} {l : List Nat} (hb : b ∈ l) (hp : pick n = l.idxOf b) :
    permuteBy pick (n + 1) l = b :: permuteBy pick n (l.erase b) := by
  have hlt : l.idxOf b < l.length := List.idxOf_lt_length_of_mem hb
  simp only [permuteBy, hp, Nat.mod_eq_of_lt hlt, List.getElem?_eq_getElem hlt, List.getElem_idxOf]

/-- Every permutation is the order of some pick sequence: the one that names the place of its first button, and then
picks the rest of it out of what is left. -/
theorem exists_permuteBy_eq {order l : List Nat} (h : order.Perm l) :
    ∃ pick : Nat → Nat, permuteBy pick l.length l = order := by
  rw [← h.length_eq]
  induction order generalizing l with
  | nil => exact ⟨id, rfl⟩
  | cons b rest ih =>
    obtain ⟨hb, left⟩ := List.cons_perm_iff_perm_erase.1 h
    obtain ⟨pick, hpick⟩ := ih left
    refine ⟨Function.update pick rest.length (l.idxOf b), ?_⟩
    rw [List.length_cons, permuteBy_idxOf hb (Function.update_self ..),
      permuteBy_congr (fun m hm => Function.update_of_ne hm.ne ..), hpick]

/-! ### ADVANCE (R89 to R91) -/

/-- The key of the last button pressed, or the old key where none was (R89). -/
theorem getLast?_keymap_or (order : List Nat) (k : Option KeyCode) :
    (order.map keymap).getLast?.or k =
      match order.getLast? with
      | some b => some (keymap b)
      | none => k := by
  rw [List.getLast?_map]
  cases order.getLast? <;> rfl

/-- ADVANCE on a non-empty snapshot presses the new buttons in the order PRESS_ORDER gives them (R89, R90). -/
theorem exec_advance_of_pressed {s : State} {order : List Nat} {last : Option KeyCode} {env : Env}
    (hv : s.snapv = 0b111) (hs : s.snap ≠ 0)
    (ho : pressSequence s.params.pressOrder s.env.count (s.snap &&& ~~~s.active) = order)
    (hl : (order.map keymap).getLast?.or s.lastKey = last)
    (he : s.env.afterPressOrder s.params.pressOrder = env) :
    exec .advance s = .next
      { s with
        out := s.out ++ order.map (fun b => Event.press (keymap b))
        lastKey := last
        active := s.active ||| s.snap
        any := true
        pressedOut := s.snap &&& ~~~s.active
        releasedOut := 0
        snap := 0
        snapv := 0b000
        env := env
        phase := s.nextPhase } := by
  have keys : s.newKeys = order.map keymap := congrArg (List.map keymap) ho
  have events : order.map (fun b => Event.press (keymap b)) = s.newKeys.map Event.press := by
    rw [keys, List.map_map]
    rfl
  rw [exec_of_done (i := .advance) (microAdvance_of_complete hv), State.transition_of_pressed hs, events, ← hl,
    ← keys, ← he, ← anyAfter_eq_true.2 hs]
  rfl

/-- ADVANCE on an empty snapshot releases everything that was active (R89, R91). -/
theorem exec_advance_of_empty {s : State} (hv : s.snapv = 0b111) (hs : s.snap = 0) :
    exec .advance s = .next
      { s with
        out := s.out ++ s.releaseEvents
        releasedOut := s.active
        pressedOut := 0
        active := 0
        lastKey := none
        any := false
        snap := 0
        snapv := 0b000
        phase := s.nextPhase } := by
  have quiet : anyAfter s.snap = false := by rw [hs]; rfl
  rw [exec_of_done (i := .advance) (microAdvance_of_complete hv), State.transition_of_empty hs, ← quiet]
  rfl

/-- The reading of RELEASE_ALL_ONLY_IF_ACTIVE that holds the event back (R91). -/
theorem State.releaseEvents_eq (s : State) :
    s.releaseEvents =
      if s.params.releaseAllOnlyIfActive = true ∧ s.active = 0 then [] else [Event.releaseAll] := by
  rw [State.releaseEvents, ← ite_not]
  simp only [not_or, Bool.not_eq_false, not_not]

theorem State.releaseEvents_eq_releaseAll {s : State} :
    s.releaseEvents = [Event.releaseAll] ↔ s.params.releaseAllOnlyIfActive = false ∨ s.active ≠ 0 := by
  rw [State.releaseEvents, ite_eq_left_iff, imp_iff_not (List.cons_ne_nil _ _).symm, not_not]

/-- The state under one reading of RELEASE_ALL_ONLY_IF_ACTIVE, as R91 compares them. -/
def State.withReleaseOnly (s : State) (only : Bool) : State :=
  { s with params := { s.params with releaseAllOnlyIfActive := only } }

/-- Under either reading the release event is there, unless the parameter is on and nothing was active (R91). -/
theorem releaseEvents_withReleaseOnly {s : State} {only : Bool} :
    (s.withReleaseOnly only).releaseEvents = [Event.releaseAll] ↔ only = false ∨ s.active ≠ 0 :=
  State.releaseEvents_eq_releaseAll

/-- Settles O26: the ascending order is the model's own list of the new buttons, and takes no draw. -/
theorem advanceTransition : Obligations.AdvanceTransition := by
  refine ⟨?_, ?_, ?_, rfl⟩
  · intro s hv hs ho
    have order : pressSequence s.params.pressOrder s.env.count (s.snap &&& ~~~s.active) =
        ascendingButtons (s.snap &&& ~~~s.active) := by
      rw [ho, ascendingButtons_eq_buttonsOf]
      rfl
    exact exec_advance_of_pressed hv hs order (getLast?_keymap_or _ _) (by rw [ho]; rfl)
  · intro s hv hs
    rw [exec_advance_of_empty hv hs, State.releaseEvents_eq]
  · intro s hv
    exact exec_of_stopped (i := .advance) (microAdvance_of_incomplete hv)

/-- Settles O27: the order is the model's press sequence, a permutation whatever PRESS_ORDER is, and every permutation
has its picks. -/
theorem pressOrderReadings : Obligations.PressOrderReadings := by
  simp only [Obligations.PressOrderReadings, ascendingButtons_eq_buttonsOf]
  refine ⟨?_, fun _ _ => rfl, fun _ _ => exists_permuteBy_eq⟩
  intro s hv hs
  refine ⟨pressSequence s.params.pressOrder s.env.count (s.snap &&& ~~~s.active), pressSequence_perm _ _ _, ?_,
    exec_advance_of_pressed hv hs rfl (getLast?_keymap_or _ _) rfl⟩
  intro ho
  rw [ho]
  exact buttonsOf_pairwise_lt _

/-- Settles O28: the two runs differ in their release events alone, and those are the same exactly when the parameter is
off or something was active. -/
theorem releaseAllReadings : Obligations.ReleaseAllReadings := by
  intro s only hv hs
  have byDefault : (s.withReleaseOnly false).releaseEvents = [Event.releaseAll] :=
    releaseEvents_withReleaseOnly.2 (.inl rfl)
  have same : s.out ++ (s.withReleaseOnly only).releaseEvents = s.out ++ (s.withReleaseOnly false).releaseEvents ↔
      only = false ∨ s.active ≠ 0 := by
    rw [List.append_cancel_left_eq, byDefault, releaseEvents_withReleaseOnly]
  refine ⟨_, _, exec_advance_of_empty hv hs, exec_advance_of_empty hv hs, congrArg (s.out ++ ·) byDefault, ?_,
    fun ha => same.2 (.inr ha), rfl, rfl, ?_⟩
  · intro ho ha
    have held : (s.withReleaseOnly only).releaseEvents = [] := (State.releaseEvents_eq _).trans (if_pos ⟨ho, ha⟩)
    exact (congrArg (s.out ++ ·) held).trans (List.append_nil _)
  · rintro ⟨-, hkey⟩
    exact same.trans (or_congr_right hkey)

/-! ### GUARD (R93) -/

/-- Settles O29: the wait is the event GUARD emits, and ANY alone decides it. -/
theorem guardWaitsWhileAny : Obligations.GuardWaitsWhileAny := by
  refine ⟨?_, ?_, rfl⟩
  · intro s h
    have wait : (if s.any then [Event.delay .guardDelay] else []) = [.delay .guardDelay] := if_pos h
    rw [exec_of_done (i := .guard) (microGuard_eq s), wait]
    rfl
  · intro s h
    have silent : (if s.any then [Event.delay .guardDelay] else []) = [] := if_neg (by simp [h])
    rw [exec_of_done (i := .guard) (microGuard_eq s), silent, State.emit, List.append_nil]
    rfl

end Sys2Proof.Machine
end

section
/-! SUPPORT. PHASE, the microprogram's table and POLL as an operation: O9, O13 and O35 (spec/43_poll_cycle.md R99, R101
to R104). -/

namespace Sys2Proof.Machine

/-! ### PHASE (R102 to R104) -/

/-- Settles O13: an operation either completes, with STOP kept and PHASE moved on, or stops with a code that is not 0
and PHASE kept. -/
theorem phaseMovesByOne : Obligations.PhaseMovesByOne := by
  intro i s t h0 h
  obtain ⟨u, -, kept, rfl, hphase⟩ | ⟨-, left⟩ := exec_next_cases h
  · have running : u.advancePhase.stop = 0 := kept.stop.1.trans h0
    exact ⟨fun _ hm => hphase.trans (State.nextPhase_autonomous hm),
      fun _ hm => hphase.trans (State.nextPhase_driven hm), fun stopped => absurd running stopped⟩
  · have stopped : t.stop ≠ 0 := fun zero => absurd left.code.1 (by rw [zero]; decide)
    exact ⟨fun running => absurd running stopped, fun running => absurd running stopped, fun _ => left.phase⟩

/-! ### The microprogram (R101) -/

theorem rowProgram_length (r : Row) : (rowProgram r).length = 18 := rfl

/-- The 18 words from `18 * ri(r)` on are row `r`'s. -/
theorem microprogram_getElem?_row (r : Row) {o : Nat} (ho : o < 18) :
    microprogram[18 * rowIndex r + o]? = (rowProgram r)[o]? := by
  have skip (q : Row) (n : Nat) (ws : List OpWord) : (rowProgram q ++ ws)[18 + n]? = ws[n]? := by
    rw [List.getElem?_append_right (by rw [rowProgram_length]; omega), rowProgram_length, Nat.add_sub_cancel_left]
  have here (q : Row) (ws : List OpWord) : (rowProgram q ++ ws)[o]? = (rowProgram q)[o]? :=
    List.getElem?_append_left ho
  cases r with
  | AH => rw [rowIndex, Nat.mul_zero, Nat.zero_add, microprogram, here]
  | IN => rw [rowIndex, Nat.mul_one, microprogram, skip, here]
  | CMD => rw [rowIndex, show 18 * 2 + o = 18 + (18 + o) by omega, microprogram, skip, skip, here]

/-- After the first SAMPLE a row's words alternate: each position 1 to 7 is a CLOCK and then a SAMPLE. -/
theorem rowProgram_position (r : Row) {j : Nat} (h1 : 1 ≤ j) (h7 : j ≤ 7) :
    (rowProgram r)[2 * j + 1]? = some 0x40 ∧ (rowProgram r)[2 * j + 2]? = some 0x30 := by
  match j, h1, h7 with
  | 1, _, _ | 2, _, _ | 3, _, _ | 4, _, _ | 5, _, _ | 6, _, _ | 7, _, _ => exact ⟨rfl, rfl⟩

/-- Settles O9: each row's 18 words are read off its own program, and the list is the expansion's words. -/
theorem microprogramTable : Obligations.MicroprogramTable := by
  refine ⟨rfl, fun r => ⟨?_, ?_, ?_, fun j h1 h7 => ?_, fun j h1 h7 => ?_, ?_⟩, rfl, rfl, rfl, rfl, rfl,
    microprogram_eq, by decide, by decide, by decide⟩
  · exact microprogram_getElem?_row r (o := 0) (by decide)
  · exact microprogram_getElem?_row r (by decide)
  · exact microprogram_getElem?_row r (by decide)
  · exact (microprogram_getElem?_row r (by omega)).trans (rowProgram_position r h1 h7).1
  · exact (microprogram_getElem?_row r (by omega)).trans (rowProgram_position r h1 h7).2
  · exact microprogram_getElem?_row r (by decide)

/-! ### POLL (R99) -/

/-- Between row reads NREAD is 0 or 8. -/
theorem State.readInProgress_of_between {s : State} (h : s.nread = 0 ∨ s.nread = 8) : s.readInProgress = false := by
  obtain h | h := h
  · simp [State.readInProgress, h]
  · exact State.readInProgress_of_eight h

/-- A transition discards the snapshot and leaves the lines and the reader alone (R89). -/
theorem State.transition_frame (s : State) :
    LinesKept s s.transition ∧ ReaderKept s s.transition ∧ s.transition.snapv = 0b000 := by
  by_cases h : s.snap = 0
  · rw [State.transition_of_empty h]; exact ⟨⟨rfl, rfl, rfl, rfl⟩, ⟨rfl, rfl, rfl, rfl, rfl, rfl⟩, rfl⟩
  · rw [State.transition_of_pressed h]; exact ⟨⟨rfl, rfl, rfl, rfl⟩, ⟨rfl, rfl, rfl, rfl, rfl, rfl⟩, rfl⟩

/-- Settles O35: POLL is its expansion's operations at one PHASE, ADVANCE ends the cycle its three rows filled, and the
checks of SELECT AH and of the first DECODE are the two that can fail. -/
theorem pollIsItsExpansion : Obligations.PollIsItsExpansion := by
  refine ⟨?_, ?_, ?_, rfl⟩
  · rintro s h0 ⟨between, hv⟩
    obtain ⟨c, read, hdone⟩ := microPoll_of_start (State.readInProgress_of_between between) hv
    obtain ⟨p, hrun⟩ := runOps_of_runMicros h0 ((microPoll_eq_runMicros s).symm.trans hdone)
    have running : c.transition.stop = 0 := c.transition_kept.stop.1.trans (read.rest.1.trans h0)
    obtain ⟨⟨selAH, selIN, -, -⟩, ⟨-, -, k, -, nread, lrow⟩, snapv⟩ := c.transition_frame
    exact ⟨_, _, exec_of_done (i := .poll) hdone, running, hrun, rfl, snapv, nread.trans read.nread, k.trans read.k,
      lrow.trans read.lrow, selAH.trans read.select.1, selIN.trans read.select.2⟩
  · intro s h1 h7
    exact exec_of_stopped (i := .poll) (microPoll_of_reading (State.readInProgress_iff.2 ⟨h1, h7⟩))
  · intro s between hv
    obtain ⟨u, hread, read, hstop⟩ := microPoll_of_pending (State.readInProgress_of_between between) hv
    obtain ⟨-, -, -, phase, -⟩ := read.rest
    refine ⟨_, exec_of_done (i := .readRow .AH) hread, ?_⟩
    rw [exec_of_stopped (i := .poll) hstop, ← phase]
    rfl

end Sys2Proof.Machine
end

section
/-! SUPPORT. The stopped block and the transport: O11 and O34 (spec/60_exceptions.md R112, R120). -/

namespace Sys2Proof.Machine

/-! ### The stopped block (R112) -/

/-- No check records the code 0. -/
theorem LeftByStopping.stop_ne_zero {s t : State} (h : LeftByStopping s t) : t.stop ≠ 0 :=
  fun zero => absurd h.code.1 (by rw [zero]; decide)

theorem step_of_stopped {s : State} (h : s.stop ≠ 0) : step s = .fault .stopped := if_pos h

/-- Settles O11: an operation that completes keeps STOP and one that stops records a code, and the step asks for STOP
before it fetches. -/
theorem stoppedBlockTakesNoStep : Obligations.StoppedBlockTakesNoStep := by
  refine ⟨fun i s t hs h => ?_, fun s hs => ⟨step_of_stopped hs, ?_⟩⟩
  · obtain ⟨u, -, kept, rfl, -⟩ | ⟨-, left⟩ := exec_next_cases h
    · rwa [State.advancePhase_stop, kept.stop.1]
    · exact left.stop_ne_zero
  · rintro ⟨t, ht⟩
    rw [step_of_stopped hs] at ht
    cases ht

/-! ### The transport (R120) -/

/-- A trace is sent event by event, in its order. -/
theorem transportCalls_append (xs ys : List Event) :
    transportCalls (xs ++ ys) = transportCalls xs ++ transportCalls ys := List.filterMap_append

/-- Settles O34: the calls grow by those of the event alone, one for a Press or a ReleaseAll and none for a Delay. -/
theorem transportGetsNoDelay : Obligations.TransportGetsNoDelay :=
  ⟨rfl, fun out k => transportCalls_append out [.press k], fun out => transportCalls_append out [.releaseAll],
    fun out d => (transportCalls_append out [.delay d]).trans (List.append_nil _)⟩

end Sys2Proof.Machine
end

section
/-! SUPPORT. The state after reset and the entry point: O8 (spec/70_reset_and_hazards.md R125). -/

namespace Sys2Proof.Machine

/-- The entry point: the first word of row AH's program is its SELECT. -/
theorem microprogram_entry : (microprogram[0]?).map decodeOp = some (.ok (.select .AH)) := by
  have first : microprogram[0]? = some (encode (.select .AH)) := microprogram_getElem?_row .AH (o := 0) (by decide)
  rw [first]
  rfl

/-- Settles O8: the listed items are those the reset state is written with, a driven run differs from it in the mode
and in what it loads, and the entry point is read off the microprogram. -/
theorem resetLeaves : Obligations.ResetLeaves :=
  ⟨rfl, rfl, rfl, rfl, rfl, rfl, rfl, rfl, rfl, rfl, rfl, rfl, rfl, rfl, rfl, rfl, rfl, rfl, rfl, rfl, rfl,
    microprogram_entry, fun _ _ _ => rfl⟩

end Sys2Proof.Machine
end

section
/-! SUPPORT. Words and operations, the assembler, the masks, the step and the data line: O1, O3, O5, O7, O10, O12 and
O19 (spec/30_encoding.md sections 3 and 5 to 7, spec/43_poll_cycle.md R102, R103). -/

namespace Sys2Proof.Machine

/-! ### Words and operations (R65 to R69) -/

/-- A word is its opcode nibble above its operand nibble (R65). -/
theorem opcodeOf_append_operandOf (w : OpWord) : opcodeOf w ++ operandOf w = w := by
  apply BitVec.eq_of_getLsbD_eq
  intro j hj
  rw [BitVec.getLsbD_append, opcodeOf, operandOf]
  by_cases h : j < 4
  · simp [h]
  · have upper : j - 4 < 4 := by omega
    simp [h, upper, Nat.add_sub_cancel' (Nat.le_of_not_lt h)]

/-- A selector field names at most the row it is the selector of (R53, R56). -/
theorem rowOfSelector_eq_some {sel : BitVec 2} {r : Row} : rowOfSelector sel = some r ↔ sel = r.selector := by
  revert sel
  cases r <;> decide

/-- The operand of a row is its selector, with the reserved bits at 0 above it (R65). -/
theorem operand_eq_selector {opd : BitVec 4} {r : Row} (reserved : opd.extractLsb' 2 2 = 0)
    (hsel : rowOfSelector (opd.extractLsb' 0 2) = some r) : 0#2 ++ r.selector = opd := by
  rw [← rowOfSelector_eq_some.1 hsel]
  clear hsel
  revert opd
  decide

/-- An opcode without an operand stands for the operation that has it (R66). -/
theorem opcode_of_plainOp {opc : BitVec 4} {i : Instr} (h : plainOp opc = .ok i) : opcode i = opc ∧ operand i = 0 := by
  unfold plainOp at h
  split_ifs at h with h2 h3 h4 h6 h7 h8 h9 <;> cases h
  · exact ⟨h2.symm, rfl⟩
  · exact ⟨h3.symm, rfl⟩
  · exact ⟨h4.symm, rfl⟩
  · exact ⟨h6.symm, rfl⟩
  · exact ⟨h7.symm, rfl⟩
  · exact ⟨h8.symm, rfl⟩
  · exact ⟨h9.symm, rfl⟩

/-- A word that decodes has the nibbles of its operation (R65, R66). -/
theorem nibbles_of_decodeOp {w : OpWord} {i : Instr} (h : decodeOp w = .ok i) :
    opcode i = opcodeOf w ∧ operand i = operandOf w := by
  by_cases hrow : opcodeOf w = 0x1 ∨ opcodeOf w = 0x5
  · cases hsel : rowOfSelector ((operandOf w).extractLsb' 0 2) with
    | none =>
      simp only [decodeOp, if_pos hrow, hsel] at h
      split_ifs at h
    | some r =>
      simp only [decodeOp, if_pos hrow, hsel] at h
      split_ifs at h with _ hreserved hselect <;> cases h
      · exact ⟨hselect.symm, operand_eq_selector (not_not.1 hreserved) hsel⟩
      · exact ⟨(hrow.resolve_left hselect).symm, operand_eq_selector (not_not.1 hreserved) hsel⟩
  · simp only [decodeOp, if_neg hrow] at h
    split_ifs at h with _ hplain
    rw [not_not.1 hplain]
    exact opcode_of_plainOp h

/-- Every operation's word decodes to it. -/
@[simp] theorem decodeOp_encode (i : Instr) : decodeOp (encode i) = .ok i := by
  cases i with
  | select r => cases r <;> rfl
  | readRow r => cases r <;> rfl
  | latch | sample | clock | decode | advance | guard | poll => rfl

/-- Settles O1: a word is its two nibbles, and those of a word that decodes are its operation's. -/
theorem decodeEncodeAgree : Obligations.DecodeEncodeAgree := by
  intro w i
  constructor
  · intro h
    obtain ⟨opc, opd⟩ := nibbles_of_decodeOp h
    rw [encode, opc, opd, opcodeOf_append_operandOf]
  · rintro rfl
    exact decodeOp_encode i

/-- Settles O3: each of the seven words is the word of its operation. -/
theorem familyWordsDecode : Obligations.FamilyWordsDecode :=
  ⟨decodeOp_encode (.select .IN), decodeOp_encode .latch, decodeOp_encode (.readRow .CMD), decodeOp_encode .decode,
    decodeOp_encode .advance, decodeOp_encode .guard, decodeOp_encode .poll⟩

/-! ### The assembler (R70) -/

/-- Every operation's word is one of the legal words (R65, R66). -/
theorem word_encode (i : Instr) : WellFormed.word (encode i) = true := by
  have legal : Laws.EncodesLegally.Statement i := by
    cases i with
    | select r => exact Laws.EncodesLegally.select r
    | latch => exact Laws.EncodesLegally.latch
    | sample => exact Laws.EncodesLegally.sample
    | clock => exact Laws.EncodesLegally.clock
    | readRow r => exact Laws.EncodesLegally.readRow r
    | decode => exact Laws.EncodesLegally.decode
    | advance => exact Laws.EncodesLegally.advance
    | guard => exact Laws.EncodesLegally.guard
    | poll => exact Laws.EncodesLegally.poll
  exact legal.1

theorem assembleLine_lineOf (i : Instr) : assembleLine (lineOf i) = some [encode i] := by
  cases i with
  | select r => cases r <;> rfl
  | readRow r => cases r <;> rfl
  | latch | sample | clock | decode | advance | guard | poll => rfl

/-- What a line assembles to is an operation's word, or nothing. -/
theorem assembleLine_eq_some {line : List Char} {ws : List OpWord} (h : assembleLine line = some ws) :
    ws = [] ∨ ∃ i : Instr, ws = [encode i] := by
  obtain ⟨op, -, rfl⟩ := Option.map_eq_some_iff.1 h
  cases op with
  | none => exact .inl rfl
  | some i => exact .inr ⟨i, rfl⟩

/-- Settles O7: the lines by evaluation, and whatever a line spells, its word is an operation's. -/
theorem assemblerSpellsLegalWords : Obligations.AssemblerSpellsLegalWords := by
  refine ⟨assembleLine_lineOf, fun line ws h => ?_⟩
  obtain rfl | ⟨i, rfl⟩ := assembleLine_eq_some h
  · simp
  · simp [word_encode]

/-! ### The masks and the bit-position table (R59, R60, R83) -/

/-- The 24-bit mask holds each row's mask at its button indexes, and the table is read back from them. -/
theorem used24_buttonAt_position (r : Row) {p : Nat} (hp : p < 8) :
    used24.getLsbD (buttonIndex r p) = (used r).getLsbD p ∧ buttonAt (8 * rowIndex r + p) = posTable r p := by
  have table : ∀ q : Row, ∀ c : Fin 8,
      used24.getLsbD (buttonIndex q c) = (used q).getLsbD c ∧ buttonAt (8 * rowIndex q + c) = posTable q c := by
    intro q
    cases q <;> decide
  exact table r ⟨p, hp⟩

/-- Settles O5: the masks against the table row by row, at each of the eight positions. -/
theorem masksMatchTheTable : Obligations.MasksMatchTheTable :=
  ⟨fun r _ => used_getLsbD r, fun r _ hp => (used24_buttonAt_position r hp).1,
    fun r _ hp => (used24_buttonAt_position r hp).2, rfl, rfl, rfl, rfl⟩

/-! ### The step and the data line (R22, R102, R103) -/

theorem step_of_decoded {s : State} {w : OpWord} {i : Instr} (h0 : s.stop = 0) (hf : s.fetch = .word w)
    (hd : decodeOp w = .ok i) : step s = exec i s := by
  rw [step, if_neg (not_not.2 h0), hf]
  simp only [hd]

/-- Settles O10: the word at PHASE is the word fetched, in either mode. -/
theorem stepRunsDecoded : Obligations.StepRunsDecoded := by
  intro s w i h0 hword hd
  obtain ⟨hm, hw⟩ | ⟨hm, hw⟩ := hword
  · exact step_of_decoded h0 (State.fetch_autonomous hm hw) hd
  · exact step_of_decoded h0 (State.fetch_driven hm hw) hd

theorem State.complete_iff {s : State} :
    s.complete = true ↔ s.mode = .driven ∧ s.phase = s.prog.length ∧ s.stop = 0 := decide_eq_true_iff

theorem step_of_complete {s : State} (h : s.complete = true) : step s = .fault .runComplete := by
  obtain ⟨hm, hp, h0⟩ := State.complete_iff.1 h
  rw [step, if_neg (not_not.2 h0), State.fetch, hm]
  simp only [if_pos hp]

/-- Settles O12: PHASE at the end of the program fetches no word. -/
theorem drivenRunEnds : Obligations.DrivenRunEnds := by
  intro s h
  refine ⟨step_of_complete h, ?_⟩
  rintro ⟨t, ht⟩
  rw [step_of_complete h] at ht
  cases ht

/-- Settles O19: a latched register drives DATA with its stage SR[0]. -/
theorem dataFollowsTheRegister : Obligations.DataFollowsTheRegister := by
  intro s hv
  rw [State.dataLevel_of_valid hv]
  exact ⟨rfl, Level.bit_ofBit _⟩

end Sys2Proof.Machine
end

section
/-! SUPPORT. What each micro-operation can do, said once, and that a stop is precise: O41 (spec/60_exceptions.md
R111). -/

namespace Sys2Proof.Machine

/-! ### The results of the micro-operations -/

/-- `t` is `s` after the stop entry of operation `i`, for some cause (R111). -/
def State.StopsIn (s : State) (i : Instr) (t : State) : Prop := ∃ c : StopCause, t = s.stopEntry c (encode i)

theorem MicroResult.Ends.mono {p p' q q' : State → Prop} {m : MicroResult} (h : m.Ends p q)
    (hp : ∀ s, p s → p' s) (hq : ∀ s, q s → q' s) : m.Ends p' q' := by
  cases m with
  | done s => exact hp s h
  | stopped s => exact hq s h
  | fault e => trivial

theorem microSelect_result (r : Row) (s : State) :
    (microSelect r s).Ends (fun u => u = { s with selAH := r.levels.1, selIN := r.levels.2 })
      (s.StopsIn (.select r)) := by
  cases h : s.readInProgress
  · rw [microSelect_of_idle h]; exact rfl
  · rw [microSelect_of_reading h]; exact ⟨_, rfl⟩

theorem microLatch_result (s : State) :
    (microLatch s).Ends (fun u => ∃ r : Row, u = ({ s with lat := .low } : State).capture r) (s.StopsIn .latch) := by
  cases h : s.readInProgress
  · rw [microLatch, h]
    cases selRow s.selAH s.selIN with
    | none => trivial
    | some r => exact ⟨r, rfl⟩
  · rw [microLatch_of_reading h]; exact ⟨_, rfl⟩

theorem microSample_result (s : State) :
    (microSample s).Ends (fun u => s.srValid = true ∧ s.nread.toNat = s.k.toNat ∧ u = s.readBit)
      (s.StopsIn .sample) := by
  cases hv : s.srValid
  · rw [microSample_of_unlatched hv]; exact ⟨_, rfl⟩
  · by_cases hn : s.nread.toNat = s.k.toNat
    · rw [microSample_of_unread hv hn]; exact ⟨rfl, hn, rfl⟩
    · rw [microSample_of_misplaced hv hn]; exact ⟨_, rfl⟩

theorem microClock_result (s : State) :
    (microClock s).Ends
      (fun u => s.srValid = true ∧ s.k ≠ 7 ∧ s.nread.toNat = s.k.toNat + 1 ∧
        u = ({ s with clk := .low } : State).shift)
      (s.StopsIn .clock) := by
  by_cases hv : s.srValid = false
  · rw [microClock_of_unlatched hv]; exact ⟨_, rfl⟩
  · rw [Bool.not_eq_false] at hv
    by_cases hn : s.k = 7 ∨ s.nread.toNat ≠ s.k.toNat + 1
    · rw [microClock_of_misplaced hv hn]; exact ⟨_, rfl⟩
    · obtain ⟨hk, hn⟩ := not_or.1 hn
      rw [microClock_of_read hv hk (not_ne_iff.1 hn)]; exact ⟨hv, hk, not_ne_iff.1 hn, rfl⟩

theorem microReadRow_result (r : Row) (s : State) :
    (microReadRow r s).Ends (ReadUpTo (s.env.rowPins r) r s 7) (s.StopsIn (.select r)) := by
  cases h : s.readInProgress
  · obtain ⟨t, hdone, read⟩ := microReadRow_of_idle (r := r) h
    rw [hdone]; exact read
  · rw [microReadRow_of_reading h]; exact ⟨_, rfl⟩

theorem microDecode_result (s : State) :
    (microDecode s).Ends (fun u => ∃ r : Row, s.snapv = decodedBefore r ∧ u = s.recordSlice r)
      (s.StopsIn .decode) := by
  by_cases h : s.nread = 8
  · cases hr : s.lrow with
    | none => rw [microDecode, if_neg (not_not.2 h), hr]; trivial
    | some r =>
      by_cases ho : s.snapv = decodedBefore r
      · rw [microDecode_of_ready h hr ho]; exact ⟨r, ho, rfl⟩
      · rw [microDecode_of_disordered h hr ho]; exact ⟨_, rfl⟩
  · rw [microDecode_of_incomplete h]; exact ⟨_, rfl⟩

theorem microAdvance_result (s : State) :
    (microAdvance s).Ends (fun u => u = s.transition) (s.StopsIn .advance) := by
  by_cases h : s.snapv = 0b111
  · rw [microAdvance_of_complete h]; exact rfl
  · rw [microAdvance_of_incomplete h]; exact ⟨_, rfl⟩

/-- The next state of an operation, by the results of its micro-operation. -/
theorem exec_next_of_ends {i : Instr} {s t : State} {p q : State → Prop} (h : exec i s = .next t)
    (hends : (microOf i s).Ends p q) : (∃ u, p u ∧ t = u.advancePhase) ∨ q t :=
  hends.of_finish (by rwa [← exec_eq_finish])

theorem exec_guard_eq (s : State) :
    exec .guard s = .next ((s.emit (if s.any then [Event.delay .guardDelay] else [])).atPhase s.nextPhase) :=
  exec_of_done (i := .guard) (microGuard_eq s)

/-! ### A stop is precise (R111) -/

/-- A micro-operation that stops makes the stop entry of its own word, and GUARD does not stop. -/
theorem microOf_stops {i : Instr} (s : State) (hread : ∀ r, i ≠ .readRow r) (hpoll : i ≠ .poll) :
    (microOf i s).Ends (fun _ => True) (fun t => i ≠ .guard ∧ s.StopsIn i t) := by
  cases i with
  | select r => exact (microSelect_result r s).mono (fun _ _ => trivial) fun _ h => ⟨nofun, h⟩
  | latch => exact (microLatch_result s).mono (fun _ _ => trivial) fun _ h => ⟨nofun, h⟩
  | sample => exact (microSample_result s).mono (fun _ _ => trivial) fun _ h => ⟨nofun, h⟩
  | clock => exact (microClock_result s).mono (fun _ _ => trivial) fun _ h => ⟨nofun, h⟩
  | readRow r => exact absurd rfl (hread r)
  | decode => exact (microDecode_result s).mono (fun _ _ => trivial) fun _ h => ⟨nofun, h⟩
  | advance => exact (microAdvance_result s).mono (fun _ _ => trivial) fun _ h => ⟨nofun, h⟩
  | guard => trivial
  | poll => exact absurd rfl hpoll

/-- Settles O41: an operation completes and keeps the stop registers, or makes its own stop entry, whose code is one of
its checks'. -/
theorem stopIsPrecise : Obligations.StopIsPrecise := by
  intro i s t hread hpoll h
  obtain ⟨u, -, kept, rfl, hphase⟩ | ⟨hstop, left⟩ := exec_next_cases h
  · exact .inl ⟨kept.stop.1, kept.stop.2.1, kept.stop.2.2, hphase⟩
  · have stops := microOf_stops s hread hpoll
    rw [hstop] at stops
    obtain ⟨hguard, c, rfl⟩ := stops
    exact .inr ⟨left.code.1, left.code.2, hguard, rfl⟩

end Sys2Proof.Machine
end

section
/-! SUPPORT. What the operations leave unchanged: O42 to O44 (spec/10_state.md sections 1 to 6). -/

namespace Sys2Proof.Machine

/-! ### The frames of the line operations (R20 to R36) -/

/-- An operation keeps the configuration, and the stop registers unless it stops. -/
theorem exec_keeps_configuration {i : Instr} {s t : State} (h : exec i s = .next t) :
    ConfigurationKept s t ∧ StopKeptUnlessStopped s t := by
  obtain ⟨u, -, kept, rfl, -⟩ | ⟨-, left⟩ := exec_next_cases h
  · exact ⟨kept.configuration, .inl kept.stop⟩
  · exact ⟨left.configuration, .inr ⟨left.stop_ne_zero, left.stopPhase, left.phase⟩⟩

/-- The press state, its two results and OUT are as before: what ADVANCE alone writes, and GUARD of OUT. -/
def HostSideKept (s t : State) : Prop := PressStateKept s t ∧ t.out = s.out

theorem hostSideKept_of_stopsIn {s t : State} {i : Instr} (h : s.StopsIn i t) : HostSideKept s t := by
  obtain ⟨c, rfl⟩ := h
  exact ⟨⟨rfl, rfl, rfl, rfl, rfl⟩, rfl⟩

theorem snapshotKept_of_stopsIn {s t : State} {i : Instr} (h : s.StopsIn i t) : SnapshotKept s t := by
  obtain ⟨c, rfl⟩ := h
  exact ⟨rfl, rfl⟩

/-- The snapshot, the press state and OUT are as before: all that lies behind the reader. -/
def BehindReaderKept (s t : State) : Prop := SnapshotKept s t ∧ HostSideKept s t

theorem behindReaderKept_of_stopsIn {s t : State} {i : Instr} (h : s.StopsIn i t) : BehindReaderKept s t :=
  ⟨snapshotKept_of_stopsIn h, hostSideKept_of_stopsIn h⟩

/-- The operations of the lines and the reader (40_row_mux.md). -/
def isLineOperation : Instr → Prop
  | .select _ | .latch | .sample | .clock | .readRow _ => True
  | .decode | .advance | .guard | .poll => False

/-- A line operation writes nothing behind the reader, whether it completes or stops. -/
theorem microOf_line_result {i : Instr} (hi : isLineOperation i) (s : State) :
    (microOf i s).Ends (BehindReaderKept s) (BehindReaderKept s) := by
  cases i with
  | select r =>
    refine (microSelect_result r s).mono ?_ fun _ => behindReaderKept_of_stopsIn
    rintro _ rfl
    exact ⟨⟨rfl, rfl⟩, ⟨rfl, rfl, rfl, rfl, rfl⟩, rfl⟩
  | latch =>
    refine (microLatch_result s).mono ?_ fun _ => behindReaderKept_of_stopsIn
    rintro _ ⟨r, rfl⟩
    exact ⟨⟨rfl, rfl⟩, ⟨rfl, rfl, rfl, rfl, rfl⟩, rfl⟩
  | sample =>
    refine (microSample_result s).mono ?_ fun _ => behindReaderKept_of_stopsIn
    rintro _ ⟨-, -, rfl⟩
    exact ⟨⟨rfl, rfl⟩, ⟨rfl, rfl, rfl, rfl, rfl⟩, rfl⟩
  | clock =>
    refine (microClock_result s).mono ?_ fun _ => behindReaderKept_of_stopsIn
    rintro _ ⟨-, -, -, rfl⟩
    exact ⟨⟨rfl, rfl⟩, ⟨rfl, rfl, rfl, rfl, rfl⟩, rfl⟩
  | readRow r =>
    refine (microReadRow_result r s).mono ?_ fun _ => behindReaderKept_of_stopsIn
    intro u read
    obtain ⟨-, -, -, -, hout⟩ := read.rest
    exact ⟨read.snapshot, read.press, hout⟩
  | decode | advance | guard | poll => exact hi.elim

theorem exec_line_keeps {i : Instr} {s t : State} (hi : isLineOperation i) (h : exec i s = .next t) :
    BehindReaderKept s t := by
  obtain ⟨u, kept, rfl⟩ | kept := exec_next_of_ends h (microOf_line_result hi s)
  · exact kept
  · exact kept

/-- A read changes RAW at NREAD alone (R77). -/
theorem readBit_raw_of_ne (s : State) {j : Nat} (hj : j ≠ s.nread.toNat) :
    (rawByte s.readBit.raw).getLsbD j = (rawByte s.raw).getLsbD j := by
  by_cases h8 : j < 8
  · rw [readBit_raw_getLsbD s h8, if_neg hj]
  · rw [BitVec.getLsbD_of_ge _ _ (Nat.le_of_not_lt h8), BitVec.getLsbD_of_ge _ _ (Nat.le_of_not_lt h8)]

/-- Settles O42: each operation's result names what it writes, and all five leave what lies behind the reader. -/
theorem lineOperationsFrame : Obligations.LineOperationsFrame := by
  refine ⟨?_, ?_, ?_, ?_, ?_⟩
  · intro r s t h
    obtain ⟨u, rfl, rfl⟩ | ⟨c, rfl⟩ := exec_next_of_ends h (microSelect_result r s)
    · exact ⟨rfl, rfl, ⟨rfl, rfl, rfl, rfl, rfl, rfl⟩, rfl⟩
    · exact ⟨rfl, rfl, ⟨rfl, rfl, rfl, rfl, rfl, rfl⟩, rfl⟩
  · intro s t h
    obtain ⟨u, ⟨r, rfl⟩, rfl⟩ | ⟨c, rfl⟩ := exec_next_of_ends h (microLatch_result s)
    · exact ⟨rfl, rfl, rfl⟩
    · exact ⟨rfl, rfl, rfl⟩
  · intro s t h
    obtain ⟨u, ⟨-, -, rfl⟩, rfl⟩ | ⟨c, rfl⟩ := exec_next_of_ends h (microSample_result s)
    · exact ⟨⟨rfl, rfl, rfl, rfl⟩, rfl, rfl, rfl, rfl, rfl, fun _ => readBit_raw_of_ne s⟩
    · exact ⟨⟨rfl, rfl, rfl, rfl⟩, rfl, rfl, rfl, rfl, rfl, fun _ _ => rfl⟩
  · intro s t h
    obtain ⟨u, ⟨-, -, -, rfl⟩, rfl⟩ | ⟨c, rfl⟩ := exec_next_of_ends h (microClock_result s)
    · exact ⟨rfl, rfl, rfl, rfl, rfl, rfl, rfl⟩
    · exact ⟨rfl, rfl, rfl, rfl, rfl, rfl, rfl⟩
  · intro i r s t hi h
    have line : isLineOperation i := by
      simp only [List.mem_cons, List.not_mem_nil, or_false] at hi
      obtain rfl | rfl | rfl | rfl | rfl := hi <;> trivial
    obtain ⟨hsnap, hpress, hout⟩ := exec_line_keeps line h
    obtain ⟨hconf, hstop⟩ := exec_keeps_configuration h
    exact ⟨hsnap, hpress, hconf, hout, hstop⟩

/-! ### The frames of DECODE, ADVANCE, GUARD and POLL -/

/-- A transition takes no row draw and no serial draw; PRESS_ORDER = any takes a draw of its own (R90). -/
theorem State.transition_env (s : State) :
    s.transition.env.pins = s.env.pins ∧ s.transition.env.serial = s.env.serial := by
  by_cases h : s.snap = 0
  · rw [State.transition_of_empty h]; exact ⟨rfl, rfl⟩
  · rw [State.transition_of_pressed h]
    show (s.env.afterPressOrder s.params.pressOrder).pins = _ ∧ (s.env.afterPressOrder s.params.pressOrder).serial = _
    cases s.params.pressOrder <;> exact ⟨rfl, rfl⟩

/-- Settles O43: DECODE's and GUARD's results name what they write, and ADVANCE's is the transition. -/
theorem decodeAdvanceGuardPollFrame : Obligations.DecodeAdvanceGuardPollFrame := by
  refine ⟨?_, ?_, ?_, fun i s t _ h => exec_keeps_configuration h⟩
  · intro s t h
    obtain ⟨u, ⟨r, -, rfl⟩, rfl⟩ | ⟨c, rfl⟩ := exec_next_of_ends h (microDecode_result s)
    · exact ⟨⟨rfl, rfl, rfl, rfl⟩, ⟨rfl, rfl, rfl, rfl, rfl, rfl⟩, ⟨rfl, rfl, rfl, rfl, rfl⟩, rfl, rfl⟩
    · exact ⟨⟨rfl, rfl, rfl, rfl⟩, ⟨rfl, rfl, rfl, rfl, rfl, rfl⟩, ⟨rfl, rfl, rfl, rfl, rfl⟩, rfl, rfl⟩
  · intro s t h
    obtain ⟨u, rfl, rfl⟩ | ⟨c, rfl⟩ := exec_next_of_ends h (microAdvance_result s)
    · obtain ⟨lines, reader, -⟩ := s.transition_frame
      exact ⟨lines, reader, s.transition_env.1, s.transition_env.2⟩
    · exact ⟨⟨rfl, rfl, rfl, rfl⟩, ⟨rfl, rfl, rfl, rfl, rfl, rfl⟩, rfl, rfl⟩
  · intro s t h
    rw [exec_guard_eq] at h
    cases h
    exact ⟨⟨rfl, rfl, rfl, rfl⟩, ⟨rfl, rfl, rfl, rfl, rfl, rfl⟩, ⟨rfl, rfl⟩, ⟨rfl, rfl, rfl, rfl, rfl⟩, rfl, rfl⟩

/-! ### Who emits and who writes the press state (R30 to R34) -/

/-- Only ADVANCE, GUARD and POLL, which runs them, write the press state or OUT. -/
theorem exec_keeps_hostSide {i : Instr} {s t : State} (ha : i ≠ .advance) (hg : i ≠ .guard) (hp : i ≠ .poll)
    (h : exec i s = .next t) : HostSideKept s t := by
  by_cases line : isLineOperation i
  · exact (exec_line_keeps line h).2
  · cases i with
    | decode =>
      obtain ⟨u, ⟨r, -, rfl⟩, rfl⟩ | stop := exec_next_of_ends h (microDecode_result s)
      · exact ⟨⟨rfl, rfl, rfl, rfl, rfl⟩, rfl⟩
      · exact hostSideKept_of_stopsIn stop
    | advance => exact absurd rfl ha
    | guard => exact absurd rfl hg
    | poll => exact absurd rfl hp
    | select | latch | sample | clock | readRow => exact absurd trivial line

/-- The trace of `t` extends that of `s` (R33). -/
def OutGrows (s t : State) : Prop := ∃ evs : List Event, t.out = s.out ++ evs

theorem outGrows_of_out_eq {s t : State} (h : t.out = s.out) : OutGrows s t := ⟨[], by rw [h, List.append_nil]⟩

theorem State.transition_outGrows (s : State) : OutGrows s s.transition := by
  by_cases h : s.snap = 0
  · rw [State.transition_of_empty h]; exact ⟨s.releaseEvents, rfl⟩
  · rw [State.transition_of_pressed h]; exact ⟨s.newKeys.map Event.press, rfl⟩

/-- POLL emits what its ADVANCE and its GUARD do, and nothing where it stops. -/
theorem microPoll_outGrows (s : State) : (microPoll s).Ends (OutGrows s) (OutGrows s) := by
  cases h : s.readInProgress
  · by_cases hv : s.snapv = 0b000
    · obtain ⟨c, read, hdone⟩ := microPoll_of_start h hv
      obtain ⟨-, -, -, -, hout⟩ := read.rest
      obtain ⟨evs, hevs⟩ := c.transition_outGrows
      rw [hdone]
      exact ⟨evs ++ _, by rw [State.emit_out, hevs, hout, List.append_assoc]⟩
    · obtain ⟨u, -, read, hstop⟩ := microPoll_of_pending h hv
      obtain ⟨-, -, -, -, hout⟩ := read.rest
      rw [hstop]
      exact outGrows_of_out_eq hout
  · rw [microPoll_of_reading h]
    exact outGrows_of_out_eq rfl

/-- Whatever operation runs, OUT only grows (R33). -/
theorem exec_outGrows {i : Instr} {s t : State} (h : exec i s = .next t) : OutGrows s t := by
  by_cases ha : i = .advance
  · subst ha
    obtain ⟨u, rfl, rfl⟩ | stop := exec_next_of_ends h (microAdvance_result s)
    · exact s.transition_outGrows
    · exact outGrows_of_out_eq (hostSideKept_of_stopsIn stop).2
  · by_cases hg : i = .guard
    · subst hg
      rw [exec_guard_eq] at h
      cases h
      exact ⟨_, rfl⟩
    · by_cases hp : i = .poll
      · subst hp
        obtain ⟨u, grows, rfl⟩ | grows := exec_next_of_ends h (microPoll_outGrows s)
        · exact grows
        · exact grows
      · exact outGrows_of_out_eq (exec_keeps_hostSide ha hg hp h).2

/-- Settles O44: OUT grows under every operation, and GUARD, which emits, writes nothing else of the host's side. -/
theorem onlyAdvanceAndGuardEmit : Obligations.OnlyAdvanceAndGuardEmit := by
  refine ⟨fun i s t => exec_outGrows, fun i s t ha hg hp h => (exec_keeps_hostSide ha hg hp h).2, ?_⟩
  intro i s t ha hp h
  by_cases hg : i = .guard
  · subst hg
    rw [exec_guard_eq] at h
    cases h
    exact ⟨rfl, rfl, rfl, rfl, rfl⟩
  · exact (exec_keeps_hostSide ha hg hp h).1

end Sys2Proof.Machine
end

section
/-! SUPPORT. Every operation keeps the block's invariants (spec/10_state.md R38). -/

namespace Sys2Proof.Machine

/-! ### Buttons of a vector inside another -/

/-- `v` without the buttons of `u` is empty exactly when every button of `v` is one of `u`. -/
theorem and_not_eq_zero_iff {v u : ButtonVec} :
    v &&& ~~~u = 0 ↔ ∀ b : Nat, v.getLsbD b = true → u.getLsbD b = true := by
  constructor
  · intro h b hb
    have hlt : b < 24 := BitVec.lt_of_getLsbD hb
    have bit : (v &&& ~~~u).getLsbD b = false := by rw [h]; exact BitVec.getLsbD_zero
    simpa [hb, hlt] using bit
  · intro h
    apply BitVec.eq_of_getLsbD_eq
    intro b hb
    cases hv : v.getLsbD b
    · simp [hv]
    · simp [hv, h b hv, hb]

/-- Two vectors inside a third have their union inside it. -/
theorem or_and_not_eq_zero {v w u : ButtonVec} (hv : v &&& ~~~u = 0) (hw : w &&& ~~~u = 0) :
    (v ||| w) &&& ~~~u = 0 := by
  rw [and_not_eq_zero_iff] at *
  intro b hb
  rw [BitVec.getLsbD_or, Bool.or_eq_true] at hb
  exact hb.elim (hv b) (hw b)

/-- A slice written with the pressed positions of a row has no unused position (R60, R84, R85). -/
theorem writeSlice_pressed8_used {v : ButtonVec} (r : Row) (bits : Byte) (h : v &&& ~~~used24 = 0) :
    writeSlice v r (pressed8 r bits) &&& ~~~used24 = 0 := by
  rw [and_not_eq_zero_iff] at *
  intro b hb
  rw [writeSlice_getLsbD _ _ _ _ (BitVec.lt_of_getLsbD hb)] at hb
  split_ifs at hb with hslice
  · have hp : b - 8 * rowIndex r < 8 := by omega
    rw [pressed8_getLsbD r bits hp, Bool.and_eq_true, ← used_getLsbD r hp,
      ← (used24_buttonAt_position r hp).1, buttonIndex, Nat.add_sub_cancel' hslice.1] at hb
    exact hb.1
  · exact h b hb

/-! ### The block's invariants -/

/-- The invariants of R38: all of `MachineInv` but the ranges of PHASE and STOP. -/
structure BlockInv (s : State) : Prop where
  lines : LinesLegal s
  pulses : PulsesLow s
  counters : CountersLegal s
  vectors : VectorsLegal s
  snapv : SnapvLegal s
  press : PressAgrees s
  outputs : OutputsDisjoint s

theorem machineInv_iff {s : State} : MachineInv s ↔ BlockInv s ∧ PhaseLegal s ∧ StopLegal s := by
  constructor
  · rintro ⟨lines, pulses, counters, vectors, snapv, press, outputs, ranges⟩
    exact ⟨⟨lines, pulses, counters, vectors, snapv, press, outputs⟩, ranges⟩
  · rintro ⟨⟨lines, pulses, counters, vectors, snapv, press, outputs⟩, ranges⟩
    exact ⟨lines, pulses, counters, vectors, snapv, press, outputs, ranges⟩

/-- The invariants say nothing of PHASE. -/
theorem BlockInv.advancePhase {s : State} (h : BlockInv s) : BlockInv s.advancePhase :=
  ⟨h.lines, h.pulses, h.counters, h.vectors, h.snapv, h.press, h.outputs⟩

/-- The invariants say nothing of the stop registers. -/
theorem BlockInv.stopEntry {s : State} (h : BlockInv s) (c : StopCause) (w : OpWord) : BlockInv (s.stopEntry c w) :=
  ⟨h.lines, h.pulses, h.counters, h.vectors, h.snapv, h.press, h.outputs⟩

theorem BlockInv.of_stopsIn {s t : State} {i : Instr} (h : BlockInv s) (stop : s.StopsIn i t) : BlockInv t := by
  obtain ⟨c, rfl⟩ := stop
  exact h.stopEntry c _

theorem BlockInv.emit {s : State} (h : BlockInv s) (evs : List Event) : BlockInv (s.emit evs) :=
  ⟨h.lines, h.pulses, h.counters, h.vectors, h.snapv, h.press, h.outputs⟩

theorem BlockInv.select {s : State} (h : BlockInv s) (r : Row) :
    BlockInv { s with selAH := r.levels.1, selIN := r.levels.2 } := by
  refine ⟨?_, h.pulses, h.counters, h.vectors, h.snapv, h.press, h.outputs⟩
  rintro ⟨ha, hn⟩
  exact Row.levels_ne_low_low r (Prod.ext ha hn)

theorem BlockInv.capture {s : State} (h : BlockInv s) (r : Row) :
    BlockInv (({ s with lat := .low } : State).capture r) := by
  obtain ⟨-, clk⟩ := h.pulses
  exact ⟨h.lines, ⟨rfl, clk⟩, ⟨Nat.zero_le _, Nat.zero_le _, .inl rfl, nofun, fun _ => nofun⟩, h.vectors, h.snapv,
    h.press, h.outputs⟩

/-- A bit is read when NREAD = K, and NREAD is then K + 1 (R77). -/
theorem BlockInv.readBit {s : State} (h : BlockInv s) (hv : s.srValid = true) (hn : s.nread.toNat = s.k.toNat) :
    BlockInv s.readBit := by
  obtain ⟨hk, -, -, -, hrow⟩ := h.counters
  have next : (s.nread + 1).toNat = s.k.toNat + 1 := by bv_omega
  refine ⟨h.lines, h.pulses, ⟨hk, ?_, .inr next, fun unlatched => ?_, hrow⟩, h.vectors, h.snapv, h.press, h.outputs⟩
  · rw [State.readBit_nread, next]
    omega
  · cases hv.symm.trans unlatched

/-- A pulse is counted when NREAD = K + 1, and K is then NREAD (R78). -/
theorem BlockInv.shift {s : State} (h : BlockInv s) (hv : s.srValid = true) (hk : s.k ≠ 7)
    (hn : s.nread.toNat = s.k.toNat + 1) : BlockInv ({ s with clk := .low } : State).shift := by
  obtain ⟨lat, -⟩ := h.pulses
  obtain ⟨-, hread, -, -, hrow⟩ := h.counters
  have next : (s.k + 1).toNat = s.nread.toNat := by bv_omega
  refine ⟨h.lines, ⟨lat, rfl⟩, ⟨by omega, hread, .inl next.symm, fun unlatched => ?_, hrow⟩, h.vectors,
    h.snapv, h.press, h.outputs⟩
  cases hv.symm.trans unlatched

/-- A decoded row fills its own slice, in the order of the cycle (R85). -/
theorem BlockInv.recordSlice {s : State} {r : Row} (h : BlockInv s) (ho : s.snapv = decodedBefore r) :
    BlockInv (s.recordSlice r) := by
  obtain ⟨hsnap, hactive, hslices⟩ := h.vectors
  refine ⟨h.lines, h.pulses, h.counters, ⟨writeSlice_pressed8_used r _ hsnap, hactive, ?_⟩, ?_, h.press, h.outputs⟩
  · intro q hq
    rw [State.recordSlice_snapv, BitVec.getLsbD_or, Bool.or_eq_false_iff] at hq
    have other : q ≠ r := by
      rintro rfl
      revert hq
      cases q <;> simp [rowIndex]
    rw [State.recordSlice_snap, sliceOf_writeSlice_other _ _ other]
    exact hslices q hq.1
  · rw [SnapvLegal, State.recordSlice_snapv, ho, snapv_after_row]
    cases r <;> simp

/-- Where nothing is new, the snapshot is active already. -/
theorem active_ne_zero_of_no_new {s : State} (hs : s.snap ≠ 0) (hnew : s.newButtons = 0) : s.active ≠ 0 := by
  intro ha
  rw [State.newButtons, ha, show ~~~(0 : ButtonVec) = BitVec.allOnes 24 from rfl, BitVec.and_allOnes] at hnew
  exact hs hnew

/-- Presses leave ACTIVE, ANY and LAST_KEY agreeing: something is active, and LAST_KEY is a key pressed now or, if there
is none, the old key of what was active (R38 item 6). -/
theorem pressAgrees_pressNew {s : State} (h : PressAgrees s) (hs : s.snap ≠ 0) : PressAgrees s.pressNew := by
  have some_active : s.active ||| s.snap ≠ 0 := fun zero => hs (BitVec.or_eq_zero_iff.1 zero).2
  have some_key : s.newKeys.getLast?.or s.lastKey ≠ none := by
    rw [Ne, Option.or_eq_none_iff, List.getLast?_eq_none_iff, State.newKeys, List.map_eq_nil_iff, pressSequence_eq_nil]
    rintro ⟨hnew, hkey⟩
    exact h.2.1 (active_ne_zero_of_no_new hs hnew) hkey
  exact ⟨iff_of_true some_active (anyAfter_eq_true.2 hs), iff_of_true some_active some_key⟩

theorem BlockInv.transition {s : State} (h : BlockInv s) : BlockInv s.transition := by
  obtain ⟨hsnap, hactive, -⟩ := h.vectors
  have empty (r : Row) : sliceOf 0 r = 0 := by cases r <;> rfl
  by_cases hs : s.snap = 0
  · rw [State.transition_of_empty hs]
    have quiet : anyAfter s.snap = false := by rw [hs]; rfl
    have agrees : PressAgrees s.releaseActive := ⟨by simp [quiet], by simp⟩
    exact ⟨h.lines, h.pulses, h.counters, ⟨BitVec.zero_and, BitVec.zero_and, fun r _ => empty r⟩, .inl rfl, agrees,
      BitVec.zero_and⟩
  · rw [State.transition_of_pressed hs]
    exact ⟨h.lines, h.pulses, h.counters,
      ⟨BitVec.zero_and, or_and_not_eq_zero hactive hsnap, fun r _ => empty r⟩, .inl rfl,
      pressAgrees_pressNew h.press hs, BitVec.and_zero⟩

/-! ### Every operation keeps the invariants -/

theorem BlockInv.microSelect {s : State} (h : BlockInv s) (r : Row) : (microSelect r s).Ends BlockInv BlockInv :=
  (microSelect_result r s).mono (fun _ e => e ▸ h.select r) fun _ => h.of_stopsIn

theorem BlockInv.microLatch {s : State} (h : BlockInv s) : (microLatch s).Ends BlockInv BlockInv :=
  (microLatch_result s).mono (fun _ ⟨r, e⟩ => e ▸ h.capture r) fun _ => h.of_stopsIn

theorem BlockInv.microSample {s : State} (h : BlockInv s) : (microSample s).Ends BlockInv BlockInv :=
  (microSample_result s).mono (fun _ ⟨hv, hn, e⟩ => e ▸ h.readBit hv hn) fun _ => h.of_stopsIn

theorem BlockInv.microClock {s : State} (h : BlockInv s) : (microClock s).Ends BlockInv BlockInv :=
  (microClock_result s).mono (fun _ ⟨hv, hk, hn, e⟩ => e ▸ h.shift hv hk hn) fun _ => h.of_stopsIn

theorem BlockInv.microReadRow {s : State} (h : BlockInv s) (r : Row) : (microReadRow r s).Ends BlockInv BlockInv :=
  (((h.microSelect r).andThen fun _ => BlockInv.microLatch).andThen fun _ => BlockInv.microSample).andThen fun _ ht =>
    .repeatMicro 7 ht fun _ hu => hu.microClock.andThen fun _ => BlockInv.microSample

theorem BlockInv.microDecode {s : State} (h : BlockInv s) : (microDecode s).Ends BlockInv BlockInv :=
  (microDecode_result s).mono (fun _ ⟨_, ho, e⟩ => e ▸ h.recordSlice ho) fun _ => h.of_stopsIn

theorem BlockInv.microAdvance {s : State} (h : BlockInv s) : (microAdvance s).Ends BlockInv BlockInv :=
  (microAdvance_result s).mono (fun _ e => e ▸ h.transition) fun _ => h.of_stopsIn

theorem BlockInv.microGuard {s : State} (h : BlockInv s) : (microGuard s).Ends BlockInv BlockInv := h.emit _

theorem BlockInv.microPoll {s : State} (h : BlockInv s) : (microPoll s).Ends BlockInv BlockInv := by
  have row (r : Row) (t : State) (ht : BlockInv t) : (microRowCycle r t).Ends BlockInv BlockInv :=
    (ht.microReadRow r).andThen fun _ => BlockInv.microDecode
  exact ((((row .AH s h).andThen (row .IN)).andThen (row .CMD)).andThen fun _ => BlockInv.microAdvance).andThen
    fun _ => BlockInv.microGuard

theorem BlockInv.microOf {s : State} (h : BlockInv s) (i : Instr) : (microOf i s).Ends BlockInv BlockInv := by
  cases i with
  | select r => exact h.microSelect r
  | latch => exact h.microLatch
  | sample => exact h.microSample
  | clock => exact h.microClock
  | readRow r => exact h.microReadRow r
  | decode => exact h.microDecode
  | advance => exact h.microAdvance
  | guard => exact h.microGuard
  | poll => exact h.microPoll

theorem BlockInv.exec {s t : State} {i : Instr} (h : BlockInv s) (e : exec i s = .next t) : BlockInv t := by
  obtain ⟨u, hu, rfl⟩ | ht := exec_next_of_ends e (h.microOf i)
  · exact hu.advancePhase
  · exact ht

end Sys2Proof.Machine
end

section
/-! SUPPORT. The step, where there is none, and reset under the invariants: O45 to O47 (spec/10_state.md section 7). -/

namespace Sys2Proof.Machine

/-! ### The step (R102, R103) -/

/-- A step that gives a next state ran the operation of the word it fetched, or refused the word. -/
theorem step_next_cases {s t : State} (h : step s = .next t) :
    s.stop = 0 ∧ ∃ w, s.fetch = .word w ∧
      ((∃ i, exec i s = .next t) ∨ ∃ c, t = s.refuseWord c w) := by
  by_cases h0 : s.stop = 0
  · refine ⟨h0, ?_⟩
    cases hf : s.fetch with
    | word w =>
      refine ⟨w, rfl, ?_⟩
      cases hd : decodeOp w with
      | ok i => exact .inl ⟨i, (step_of_decoded h0 hf hd).symm.trans h⟩
      | error c =>
        rw [step_of_refused h0 hf hd] at h
        cases h
        exact .inr ⟨c, rfl⟩
    | complete =>
      rw [step, if_neg (not_not.2 h0), hf] at h
      cases h
    | outOfRange =>
      rw [step, if_neg (not_not.2 h0), hf] at h
      cases h
  · rw [step_of_stopped h0] at h
    cases h

/-- A driven run that fetches a word is not at its end. -/
theorem phase_lt_of_fetch {s : State} {w : OpWord} (hf : s.fetch = .word w) (hm : s.mode = .driven) :
    s.phase < s.prog.length := by
  rw [State.fetch, hm] at hf
  by_contra hlt
  simp only [List.getElem?_eq_none (Nat.le_of_not_lt hlt)] at hf
  split_ifs at hf

/-- PHASE moved on by one word stays in its range (R35). -/
theorem PhaseLegal.nextPhase {s t : State} {w : OpWord} (hf : s.fetch = .word w) (hconf : ConfigurationKept s t)
    (hp : t.phase = s.nextPhase) : PhaseLegal t := by
  obtain ⟨hmode, hprog, -⟩ := hconf
  rw [PhaseLegal, hmode, hprog, hp]
  constructor
  · intro hm
    rw [State.nextPhase_autonomous hm]
    exact Nat.mod_lt _ (by decide)
  · intro hm
    rw [State.nextPhase_driven hm]
    exact phase_lt_of_fetch hf hm

theorem PhaseLegal.of_kept {s t : State} (h : PhaseLegal s) (hconf : ConfigurationKept s t)
    (hp : t.phase = s.phase) : PhaseLegal t := by
  obtain ⟨hmode, hprog, -⟩ := hconf
  rwa [PhaseLegal, hmode, hprog, hp]

/-- A refused word stops with a code of R108. -/
theorem refusalCause_code_le (c : DecodeRefusal) : (refusalCause c).code.toNat ≤ 10 := by cases c <;> decide

/-- Settles O46: the operation keeps the block's invariants, and PHASE and STOP stay in range whether it completes,
stops or is refused. -/
theorem stepKeepsInv : Obligations.StepKeepsInv := by
  intro s t hs h
  obtain ⟨inv, hphase, hstop⟩ := machineInv_iff.1 hs
  obtain ⟨-, w, hf, ⟨i, hexec⟩ | ⟨c, rfl⟩⟩ := step_next_cases h
  · refine machineInv_iff.2 ⟨inv.exec hexec, ?_⟩
    obtain ⟨u, -, kept, rfl, hnext⟩ | ⟨-, left⟩ := exec_next_cases hexec
    · refine ⟨.nextPhase hf kept.configuration hnext, ?_⟩
      rw [StopLegal, State.advancePhase_stop, kept.stop.1]
      exact hstop
    · exact ⟨hphase.of_kept left.configuration left.phase, left.code.2.trans (by decide)⟩
  · exact machineInv_iff.2 ⟨inv.stopEntry _ _, hphase, refusalCause_code_le c⟩

/-! ### Where there is no step -/

/-- Only LATCH and DECODE can be without a meaning, and not where the lines select a row and a full read has one. -/
theorem microOf_ne_fault {s : State} (hl : LinesLegal s) (hr : s.nread = 8 → s.lrow ≠ none) (i : Instr) (e : Fault) :
    microOf i s ≠ .fault e := by
  cases i with
  | select r =>
    show microSelect r s ≠ _
    cases h : s.readInProgress
    · rw [microSelect_of_idle h]; nofun
    · rw [microSelect_of_reading h]; nofun
  | latch =>
    show microLatch s ≠ _
    cases h : s.readInProgress
    · cases hsel : selRow s.selAH s.selIN with
      | none => exact absurd (selRow_eq_none.1 hsel) hl
      | some r => rw [microLatch_of_idle h (selRow_eq_some.1 hsel).symm]; nofun
    · rw [microLatch_of_reading h]; nofun
  | sample => rw [microOf, microSample]; split_ifs <;> nofun
  | clock => rw [microOf, microClock]; split_ifs <;> nofun
  | readRow r =>
    show microReadRow r s ≠ _
    cases h : s.readInProgress
    · obtain ⟨t, hdone, -⟩ := microReadRow_of_idle (r := r) h
      rw [hdone]; nofun
    · rw [microReadRow_of_reading h]; nofun
  | decode =>
    show microDecode s ≠ _
    by_cases h : s.nread = 8
    · obtain ⟨r, hrow⟩ := Option.ne_none_iff_exists'.1 (hr h)
      by_cases ho : s.snapv = decodedBefore r
      · rw [microDecode_of_ready h hrow ho]; nofun
      · rw [microDecode_of_disordered h hrow ho]; nofun
    · rw [microDecode_of_incomplete h]; nofun
  | advance => rw [microOf, microAdvance]; split_ifs <;> nofun
  | guard => nofun
  | poll =>
    show microPoll s ≠ _
    cases h : s.readInProgress
    · by_cases hv : s.snapv = 0b000
      · obtain ⟨t, -, hdone⟩ := microPoll_of_start h hv
        rw [hdone]; nofun
      · obtain ⟨u, -, -, hstop⟩ := microPoll_of_pending h hv
        rw [hstop]; nofun
    · rw [microPoll_of_reading h]; nofun

/-- A full read was latched, and what is latched has a row (R38 item 3, R85). -/
theorem CountersLegal.lrow_ne_none {s : State} (h : CountersLegal s) (h8 : s.nread = 8) : s.lrow ≠ none := by
  obtain ⟨-, -, -, unlatched, latched⟩ := h
  cases hv : s.srValid
  · obtain ⟨h0, -⟩ := unlatched hv
    rw [h8] at h0
    cases h0
  · exact latched hv

/-- Under the invariants every operation has a next state. -/
theorem BlockInv.exists_exec {s : State} (h : BlockInv s) (i : Instr) : ∃ t, Machine.exec i s = .next t := by
  rw [exec_eq_finish]
  cases hm : Machine.microOf i s with
  | done u => exact ⟨_, rfl⟩
  | stopped u => exact ⟨_, rfl⟩
  | fault e => exact absurd hm (microOf_ne_fault h.lines h.counters.lrow_ne_none i e)

/-- In its range PHASE indexes a word, or stands at the end of a driven run (R35, R103). -/
theorem fetch_of_phaseLegal {s : State} (h : PhaseLegal s) :
    (∃ w, s.fetch = .word w) ∨ s.mode = .driven ∧ s.phase = s.prog.length := by
  cases hm : s.mode with
  | autonomous =>
    have hlt : s.phase < microprogram.length := h.1 hm
    exact .inl ⟨_, State.fetch_autonomous hm (List.getElem?_eq_getElem hlt)⟩
  | driven =>
    obtain hlt | hend := (h.2 hm).lt_or_eq
    · exact .inl ⟨_, State.fetch_driven hm (List.getElem?_eq_getElem hlt)⟩
    · exact .inr ⟨rfl, hend⟩

/-- Settles O47: in its range PHASE has a word or ends the run, a word that decodes runs an operation that has a next
state, and any other word is refused. -/
theorem onlyTerminalStatesHaveNoStep : Obligations.OnlyTerminalStatesHaveNoStep := by
  intro s hs
  obtain ⟨inv, hphase, -⟩ := machineInv_iff.1 hs
  by_cases h0 : s.stop = 0
  · obtain ⟨w, hf⟩ | ⟨hm, hend⟩ := fetch_of_phaseLegal hphase
    · cases hd : decodeOp w with
      | ok i =>
        obtain ⟨t, ht⟩ := inv.exists_exec i
        exact .inl ⟨t, (step_of_decoded h0 hf hd).trans ht⟩
      | error c => exact .inl ⟨_, step_of_refused h0 hf hd⟩
    · have done : s.complete = true := State.complete_iff.2 ⟨hm, hend, h0⟩
      exact .inr (.inr ⟨done, step_of_complete done⟩)
  · exact .inr (.inl ⟨h0, step_of_stopped h0⟩)

/-! ### Reset (R39, R125) -/

/-- Settles O45: the lines of reset are HIGH, everything else of the invariants is empty or 0. -/
theorem resetMeetsInv : Obligations.ResetMeetsInv := by
  have lines : LinesLegal State.reset := by rintro ⟨h, -⟩; cases h
  have slices (r : Row) : sliceOf State.reset.snap r = 0 := by cases r <;> rfl
  refine machineInv_iff.2 ⟨⟨lines, ⟨rfl, rfl⟩, ⟨by decide, by decide, .inl rfl, fun _ => ⟨rfl, rfl, rfl⟩, nofun⟩,
    ⟨by decide, by decide, fun r _ => slices r⟩, .inl rfl, ⟨by decide, by decide⟩, BitVec.zero_and⟩,
    ⟨fun _ => by decide, nofun⟩, ?_⟩
  show (0#4).toNat ≤ 10
  decide

end Sys2Proof.Machine
end

section
/-! SUPPORT. Where the autonomous cycle stands at each PHASE: O38 and O39 (spec/43_poll_cycle.md section 2). -/

namespace Sys2Proof.Machine

/-! ### The operation at each offset of a row (R101) -/

/-- The operation at an offset of a row's 18: SELECT, LATCH, a SAMPLE at each even offset up to 16, a CLOCK at each odd
one up to 15, and DECODE (R101). -/
def rowOpAt (r : Row) : Nat → Instr
  | 0 => .select r
  | 1 => .latch
  | 17 => .decode
  | o => if o % 2 = 0 then .sample else .clock

theorem cycleOps_getElem?_row {p : Nat} (hp : p < 54) :
    cycleOps[p]? = some (rowOpAt (rowOfBlock (p / 18)) (p % 18)) := by
  have table : ∀ q : Fin 54, cycleOps[q.val]? = some (rowOpAt (rowOfBlock (q / 18)) (q % 18)) := by decide
  exact table ⟨p, hp⟩

theorem rowOpAt_of_sample (r : Row) {o : Nat} (h : o < 16) (he : o % 2 = 0) : rowOpAt r (o + 2) = .sample := by
  have table : ∀ q : Fin 16, q.val % 2 = 0 → rowOpAt r (q + 2) = .sample := by cases r <;> decide
  exact table ⟨o, h⟩ he

theorem rowOpAt_of_clock (r : Row) {o : Nat} (h : o < 15) (he : o % 2 = 1) : rowOpAt r (o + 2) = .clock := by
  have table : ∀ q : Fin 15, q.val % 2 = 1 → rowOpAt r (q + 2) = .clock := by cases r <;> decide
  exact table ⟨o, h⟩ he

/-! ### One step within a row, and its last step -/

/-- Where a row's read stands does not depend on PHASE. -/
theorem atOffset_atPhase {s : State} {r : Row} {o p : Nat} (h : AtOffset s r o) : AtOffset (s.atPhase p) r o := by
  match o, h with
  | 0, h => exact h
  | 1, h => exact h
  | _ + 2, h => exact h

/-- Before DECODE, the operation at an offset completes and leaves the read at the next one, and SNAPV as it was. -/
theorem row_step {s : State} {r : Row} {o : Nat} (ho : o < 17) (h : AtOffset s r o) :
    ∃ u, microOf (rowOpAt r o) s = .done u ∧ u.snapv = s.snapv ∧ AtOffset u r (o + 1) := by
  match o, h with
  | 0, between => exact ⟨_, microSelect_of_idle (State.readInProgress_of_between between), rfl, between, rfl⟩
  | 1, ⟨between, lines⟩ =>
    exact ⟨_, microLatch_of_idle (State.readInProgress_of_between between) lines, rfl, rfl, rfl, rfl, rfl⟩
  | o + 2, ⟨hv, hrow, hk, hn⟩ =>
    obtain even | odd := Nat.mod_two_eq_zero_or_one o
    · rw [rowOpAt_of_sample r (by omega) even]
      refine ⟨_, microSample_of_unread hv (by omega), rfl, hv, hrow, ?_, ?_⟩
      · rw [State.readBit_k, hk]
        omega
      · have next : (s.nread + 1).toNat = s.nread.toNat + 1 := by bv_omega
        rw [State.readBit_nread, next]
        omega
    · rw [rowOpAt_of_clock r (by omega) odd]
      have unfinished : s.k ≠ 7 := by bv_omega
      refine ⟨_, microClock_of_read hv unfinished (by omega), rfl, hv, hrow, ?_, ?_⟩
      · have next : (s.k + 1).toNat = s.k.toNat + 1 := by bv_omega
        rw [State.shift_k, next]
        omega
      · rw [State.shift_nread]
        exact hn.trans (by omega)

/-- A row's DECODE completes in the row's turn. -/
theorem row_decode {s : State} {r : Row} (ho : s.snapv = decodedBefore r) (h : AtOffset s r 17) :
    ∃ u, microOf (rowOpAt r 17) s = .done u ∧
      u.snapv = decodedBefore r ||| (0b001#3 <<< rowIndex r) ∧ u.nread = 8 := by
  obtain ⟨-, hrow, -, hn⟩ := h
  have full : s.nread = 8 := BitVec.eq_of_toNat_eq hn
  exact ⟨s.recordSlice r, microDecode_of_ready full hrow ho, by rw [State.recordSlice_snapv, ho], full⟩

/-! ### The cycle -/

/-- An operation of the microprogram that completes is a step, and moves PHASE on. -/
theorem step_of_done {s u : State} {i : Instr} (hm : s.mode = .autonomous) (h0 : s.stop = 0)
    (hi : cycleOps[s.phase]? = some i) (hu : microOf i s = .done u) :
    step s = .next (u.atPhase ((s.phase + 1) % 56)) ∧ u.mode = .autonomous ∧ u.stop = 0 := by
  have kept := microOf_ends i s
  rw [hu] at kept
  refine ⟨?_, kept.configuration.1.trans hm, kept.stop.1.trans h0⟩
  rw [step_autonomous hm h0 hi, exec_of_done hu, State.nextPhase_autonomous hm]

/-- What has to hold at the next PHASE for the block to stand in the cycle there. -/
def StandsAt (u : State) (p : Nat) : Prop :=
  (p < 54 → u.snapv = decodedBefore (rowOfBlock (p / 18)) ∧ AtOffset u (rowOfBlock (p / 18)) (p % 18)) ∧
  (p = 54 → u.snapv = 0b111 ∧ u.nread = 8) ∧
  (p = 55 → u.snapv = 0b000 ∧ u.nread = 8)

theorem standsAt_row {u : State} {p : Nat} (hp : p < 54) (hv : u.snapv = decodedBefore (rowOfBlock (p / 18)))
    (h : AtOffset u (rowOfBlock (p / 18)) (p % 18)) : StandsAt u p :=
  ⟨fun _ => ⟨hv, h⟩, fun _ => by omega, fun _ => by omega⟩

theorem standsAt_advance {u : State} (hv : u.snapv = 0b111) (hn : u.nread = 8) : StandsAt u 54 :=
  ⟨fun h => absurd h (by decide), fun _ => ⟨hv, hn⟩, fun h => absurd h (by decide)⟩

theorem standsAt_guard {u : State} (hv : u.snapv = 0b000) (hn : u.nread = 8) : StandsAt u 55 :=
  ⟨fun h => absurd h (by decide), fun h => absurd h (by decide), fun _ => ⟨hv, hn⟩⟩

theorem inCycle_atPhase {u : State} {p : Nat} (hm : u.mode = .autonomous) (h0 : u.stop = 0) (hp : p < 56)
    (h : StandsAt u p) : InCycle (u.atPhase p) := by
  obtain ⟨row, advance, guard⟩ := h
  refine ⟨hm, h0, hp, fun hlt => ?_, advance, guard⟩
  obtain ⟨decoded, offset⟩ := row hlt
  exact ⟨decoded, atOffset_atPhase offset⟩

/-- Within a row the next PHASE is the row's next offset, and after its DECODE the next row's first or ADVANCE's. -/
theorem standsAt_of_row {s : State} (hp : s.phase < 54) (hv : s.snapv = decodedBefore (rowOfBlock (s.phase / 18)))
    (h : AtOffset s (rowOfBlock (s.phase / 18)) (s.phase % 18)) :
    ∃ u, microOf (rowOpAt (rowOfBlock (s.phase / 18)) (s.phase % 18)) s = .done u ∧ StandsAt u (s.phase + 1) := by
  by_cases ho : s.phase % 18 < 17
  · obtain ⟨u, hu, snapv, offset⟩ := row_step ho h
    have block : (s.phase + 1) / 18 = s.phase / 18 := by omega
    have next : (s.phase + 1) % 18 = s.phase % 18 + 1 := by omega
    refine ⟨u, hu, standsAt_row (by omega) ?_ ?_⟩
    · rw [block, snapv, hv]
    · rwa [block, next]
  · have last : s.phase % 18 = 17 := by omega
    rw [last] at h ⊢
    obtain ⟨u, hu, snapv, full⟩ := row_decode hv h
    refine ⟨u, hu, ?_⟩
    obtain h17 | h35 | h53 : s.phase = 17 ∨ s.phase = 35 ∨ s.phase = 53 := by omega
    · rw [h17] at snapv ⊢
      exact standsAt_row (by decide) snapv (.inr full)
    · rw [h35] at snapv ⊢
      exact standsAt_row (by decide) snapv (.inr full)
    · rw [h53] at snapv ⊢
      exact standsAt_advance snapv full

/-- Settles O38: the operation at PHASE completes, and leaves the block where the next PHASE says. -/
theorem autonomousModeNeverStops : Obligations.AutonomousModeNeverStops := by
  rintro s ⟨hm, h0, hp, row, advance, guard⟩
  suffices next : ∃ i u, cycleOps[s.phase]? = some i ∧ microOf i s = .done u ∧ StandsAt u ((s.phase + 1) % 56) by
    obtain ⟨i, u, hi, hu, stands⟩ := next
    obtain ⟨hstep, hmode, hstop⟩ := step_of_done hm h0 hi hu
    exact ⟨_, hstep, hstop, inCycle_atPhase hmode hstop (Nat.mod_lt _ (by decide)) stands⟩
  obtain hlt | h54 | h55 : s.phase < 54 ∨ s.phase = 54 ∨ s.phase = 55 := by omega
  · obtain ⟨hv, offset⟩ := row hlt
    obtain ⟨u, hu, stands⟩ := standsAt_of_row hlt hv offset
    rw [show (s.phase + 1) % 56 = s.phase + 1 by omega]
    exact ⟨_, u, cycleOps_getElem?_row hlt, hu, stands⟩
  · obtain ⟨hv, hn⟩ := advance h54
    obtain ⟨-, ⟨-, -, -, -, nread, -⟩, snapv⟩ := s.transition_frame
    rw [h54]
    exact ⟨.advance, _, rfl, microAdvance_of_complete hv, standsAt_guard snapv (nread.trans hn)⟩
  · obtain ⟨hv, hn⟩ := guard h55
    rw [h55]
    exact ⟨.guard, _, rfl, microGuard_eq s, standsAt_row (by decide) hv (.inr hn)⟩

/-- Settles O39: reset stands at PHASE 0, where no read and no row is pending. -/
theorem resetStandsInTheCycle : Obligations.ResetStandsInTheCycle :=
  ⟨inCycle_atPhase (u := State.reset) (p := 0) rfl rfl (by decide) (standsAt_row (by decide) rfl (.inl rfl)),
    .inl rfl, rfl⟩

end Sys2Proof.Machine
end

section
/-! SUPPORT. The row read, the snapshot of a cycle, the autonomous cycle in sum and what never reaches the host: O20,
O23, O25, O36, O37 and O40 (spec/40_row_mux.md section 3, spec/41_decoder.md section 3, spec/43_poll_cycle.md). -/

namespace Sys2Proof.Machine

/-! ### The row read and its decode (R80, R86) -/

/-- Settles O20: what holds of a read at its last position is the whole of the statement. -/
theorem readRowResult : Obligations.ReadRowResult := by
  intro r s h
  obtain ⟨t, hdone, read⟩ := microReadRow_of_idle (r := r) (State.readInProgress_eq_false.2 h)
  obtain ⟨stop, stopOp, stopPhase, -, out⟩ := read.rest
  exact ⟨_, exec_of_done (i := .readRow r) hdone, read.raw, read.nread, read.k, read.lrow, read.select, read.lat,
    read.clk (by decide), read.valid, read.stage 0 (by decide), read.env_afterRow, rfl, stop, stopOp, stopPhase, out,
    read.snapshot, read.press, read.configuration⟩

/-- The decode of a row looks at the used positions alone (R84, R86). -/
theorem pressed8_congr {r : Row} {x y : Byte} (h : x &&& used r = y &&& used r) : pressed8 r x = pressed8 r y := by
  apply BitVec.eq_of_getLsbD_eq
  intro p hp
  have bit : (x &&& used r).getLsbD p = (y &&& used r).getLsbD p := by rw [h]
  rw [BitVec.getLsbD_and, BitVec.getLsbD_and, used_getLsbD r hp] at bit
  rw [pressed8_getLsbD r x hp, pressed8_getLsbD r y hp]
  cases hused : (posTable r p).isSome
  · rfl
  · rw [hused, Bool.and_true, Bool.and_true] at bit
    rw [bit]

theorem decodeRow_congr {r : Row} {x y : Byte} (h : x &&& used r = y &&& used r) : decodeRow r x = decodeRow r y := by
  rw [decodeRow, decodeRow, pressed8_congr h]

/-- Settles O23: flipping unused positions keeps the used ones. -/
theorem unusedPositionsIgnored : Obligations.UnusedPositionsIgnored := by
  intro r bits x hx
  apply decodeRow_congr
  apply BitVec.eq_of_toNat_eq
  have unused : x.toNat &&& (used r).toNat = 0 := congrArg BitVec.toNat hx
  rw [BitVec.toNat_and, BitVec.toNat_xor, Nat.and_xor_distrib_right, unused, Nat.xor_zero, BitVec.toNat_and]

/-! ### The snapshot of a cycle (R87) -/

theorem runMicros_singleton (i : Instr) (s : State) : runMicros [i] s = microOf i s := by
  rw [runMicros]
  cases microOf i s <;> rfl

/-- A row's read and decode as two operations of a sequence (R99). -/
theorem runMicros_row (r : Row) (s : State) : runMicros [.readRow r, .decode] s = microRowCycle r s := by
  rw [runMicros, microRowCycle]
  exact congrArg _ (funext (runMicros_singleton .decode))

/-- The six operations of a snapshot are the three rows of a cycle (R87). -/
theorem runMicros_threeRows (s : State) :
    runMicros ([Instr.readRow .AH, Instr.decode] ++ ([Instr.readRow .IN, Instr.decode] ++
        [Instr.readRow .CMD, Instr.decode])) s =
      ((microRowCycle .AH s).andThen (microRowCycle .IN)).andThen (microRowCycle .CMD) := by
  rw [runMicros_append, runMicros_row, MicroResult.andThen_assoc]
  refine congrArg _ (funext fun t => ?_)
  rw [runMicros_append, runMicros_row, funext (runMicros_row .CMD)]

/-- Settles O25: the six operations are the three rows of a cycle, whatever PHASE each of them has. -/
theorem snapshotIsTheUnion : Obligations.SnapshotIsTheUnion := by
  rintro s h0 ⟨between, hv⟩
  obtain ⟨c, hrows, read⟩ := threeRows_of_start (State.readInProgress_of_between between) hv
  obtain ⟨p, hrun⟩ := runOps_of_runMicros h0 ((runMicros_threeRows s).trans hrows)
  obtain ⟨stop, -, -, -, out⟩ := read.rest
  exact ⟨_, hrun, read.snapv, read.snap, stop.trans h0, out, read.press⟩

/-! ### The autonomous cycle (R100, R106) -/

theorem State.atPhase_out (s : State) (p : Nat) : (s.atPhase p).out = s.out := rfl

/-- 56 steps of autonomous mode give what POLL's operation gives, at PHASE 0. -/
theorem run_cycle {s t : State} (hm : s.mode = .autonomous) (h0 : s.stop = 0) (hp : s.phase = 0)
    (hpoll : microPoll s = .done t) : Sys2Proof.core.run 56 s = .next (t.atPhase 0) := by
  have hrun := run_autonomous cycleOps s t hm h0 (by rw [hp]; decide) (by simp [hp])
    ((microPoll_eq_cycleOps s).symm.trans hpoll)
  rw [hp] at hrun
  exact hrun

/-- Settles O36: one POLL is the microprogram's operations at one PHASE. -/
theorem autonomousCycleIsPoll : Obligations.AutonomousCycleIsPoll := by
  rintro s hm h0 hp ⟨between, hv⟩
  obtain ⟨c, -, hpoll⟩ := microPoll_of_start (State.readInProgress_of_between between) hv
  refine ⟨_, _, run_cycle hm h0 hp hpoll, exec_of_done (i := .poll) hpoll, ?_, rfl⟩
  rw [State.atPhase_phase, State.nextPhase_autonomous hm, hp]

/-- What a cycle's ADVANCE and GUARD leave after a non-empty snapshot, under the default PRESS_ORDER (R89, R93). -/
theorem transition_of_pressed_ascending {s : State} (hs : s.snap ≠ 0) (ho : s.params.pressOrder = .ascending) :
    s.transition.any = true ∧ s.transition.active = s.active ||| s.snap ∧
      s.transition.out =
        s.out ++ (ascendingButtons (s.snap &&& ~~~s.active)).map (fun b => Event.press (keymap b)) := by
  rw [State.transition_of_pressed hs]
  refine ⟨anyAfter_eq_true.2 hs, rfl, ?_⟩
  rw [State.dropSnapshot_out, State.pressNew_out, State.newKeys, ho, List.map_map, ascendingButtons_eq_buttonsOf]
  rfl

/-- What they leave after an empty one (R89, R91, R93). -/
theorem transition_of_empty_fields {s : State} (hs : s.snap = 0) :
    s.transition.any = false ∧ s.transition.active = 0 ∧ s.transition.out = s.out ++ s.releaseEvents := by
  rw [State.transition_of_empty hs]
  refine ⟨?_, rfl, rfl⟩
  rw [State.dropSnapshot_any, State.releaseActive_any, hs]
  rfl

/-- Settles O37: the 56 steps are POLL's ADVANCE and GUARD on the union of the three draws. -/
theorem autonomousCycleInSum : Obligations.AutonomousCycleInSum := by
  rintro s hm h0 hp ⟨between, hv⟩ horder
  obtain ⟨c, read, hpoll⟩ := microPoll_of_start (State.readInProgress_of_between between) hv
  obtain ⟨stop, -, -, -, out⟩ := read.rest
  obtain ⟨active, -⟩ := read.press
  obtain ⟨-, -, params⟩ := read.configuration
  obtain ⟨-, ⟨-, -, -, -, nread, -⟩, snapv⟩ := c.transition_frame
  refine ⟨_, run_cycle hm h0 hp hpoll, rfl, ?_, ⟨.inr (nread.trans read.nread), snapv⟩, ?_, ?_⟩
  · exact c.transition_kept.stop.1.trans (stop.trans h0)
  · intro pressed
    rw [← read.snap] at pressed ⊢
    obtain ⟨hany, hactive, hout⟩ := transition_of_pressed_ascending pressed (by rw [params, horder])
    rw [hany, if_pos rfl]
    refine ⟨hactive.trans (by rw [active]), ?_⟩
    rw [State.atPhase_out, State.emit_out, hout, out, active, List.append_assoc]
  · intro empty
    rw [← read.snap] at empty
    obtain ⟨hany, hactive, hout⟩ := transition_of_empty_fields empty
    rw [hany, if_neg Bool.false_ne_true]
    refine ⟨hactive, ?_⟩
    rw [State.atPhase_out, State.emit_out, hout, out, State.releaseEvents_eq, active, params, List.append_nil]

/-! ### What never reaches the host (R86, R87) -/

/-- Two states that the host's side of a cycle cannot tell apart: only the lines, the reader, the draws still to come
and the sequencer may differ. -/
structure SeenAlike (s t : State) : Prop where
  out : t.out = s.out
  press : PressStateKept s t
  snapshot : SnapshotKept s t
  stop : t.stop = s.stop
  params : t.params = s.params
  draws : t.env.count = s.env.count

/-- A transition reads nothing else of a state than what is seen. -/
theorem SeenAlike.transition {s t : State} (h : SeenAlike s t) : SeenAlike s.transition t.transition := by
  obtain ⟨out, ⟨active, any, lastKey, pressedOut, releasedOut⟩, ⟨snap, snapv⟩, stop, params, draws⟩ := h
  have new : t.newButtons = s.newButtons := by rw [State.newButtons, snap, active, State.newButtons]
  have keys : t.newKeys = s.newKeys := by rw [State.newKeys, params, draws, new, State.newKeys]
  have events : t.releaseEvents = s.releaseEvents := by rw [State.releaseEvents, params, active, State.releaseEvents]
  by_cases hs : s.snap = 0
  · rw [State.transition_of_empty hs, State.transition_of_empty (snap.trans hs)]
    constructor <;> simp [PressStateKept, SnapshotKept, *]
  · rw [State.transition_of_pressed hs, State.transition_of_pressed (snap ▸ hs)]
    constructor <;> simp [PressStateKept, SnapshotKept, Env.afterPressOrder, *]
    cases s.params.pressOrder <;> simp [draws]

/-- What is alike before GUARD is alike after it. -/
theorem SeenAlike.emit {s t : State} (h : SeenAlike s t) (evs : List Event) : SeenAlike (s.emit evs) (t.emit evs) :=
  ⟨congrArg (· ++ evs) h.out, h.press, h.snapshot, h.stop, h.params, h.draws⟩

theorem pressStateKept_of_kept {s s' c c' : State} (h : PressStateKept s s') (k : PressStateKept s c)
    (k' : PressStateKept s' c') : PressStateKept c c' := by
  obtain ⟨_, _, _, _, _⟩ := h
  obtain ⟨_, _, _, _, _⟩ := k
  obtain ⟨_, _, _, _, _⟩ := k'
  simp_all [PressStateKept]

/-- Two cycles that begin alike and whose draws decode alike are alike once all three rows are decoded. -/
theorem SeenAlike.cycleRead {s s' c c' : State} (h : SeenAlike s s')
    (hsnap : cycleSnapshot s'.env = cycleSnapshot s.env) (read : CycleRead s c) (read' : CycleRead s' c') :
    SeenAlike c c' := by
  obtain ⟨stop, -, -, -, out⟩ := read.rest
  obtain ⟨stop', -, -, -, out'⟩ := read'.rest
  obtain ⟨-, -, params⟩ := read.configuration
  obtain ⟨-, -, params'⟩ := read'.configuration
  refine ⟨?_, pressStateKept_of_kept h.press read.press read'.press, ⟨?_, ?_⟩, ?_, ?_, ?_⟩
  · rw [out', h.out, out]
  · rw [read'.snap, hsnap, read.snap]
  · rw [read'.snapv, read.snapv]
  · rw [stop', h.stop, stop]
  · rw [params', h.params, params]
  · rw [read'.env, read.env]
    simp [Env.afterRow, h.draws]

/-- The snapshot of a cycle whose three row draws are scripted (log entry 1). -/
theorem cycleSnapshot_of_pins {e : Env} {a b c : Byte} {rest : List Byte} (h : e.pins = [a, b, c] ++ rest) :
    cycleSnapshot e = decodeRow .AH a ||| decodeRow .IN b ||| decodeRow .CMD c := by
  simp [cycleSnapshot, Env.rowPins, Env.afterRow, h]

/-- Settles O40: both POLLs decode the same snapshot, and what follows sees no more than that. -/
theorem unusedPinsNeverReachTheHost : Obligations.UnusedPinsNeverReachTheHost := by
  rintro s a b c a' b' c' rest serial' sr' raw' ⟨between, hv⟩ hpins ha hb hc
  have idle := State.readInProgress_of_between between
  obtain ⟨t, read, hdone⟩ := microPoll_of_start idle hv
  obtain ⟨t', read', hdone'⟩ := microPoll_of_start (s := { s with
    sr := sr'
    raw := raw'
    env := { s.env with pins := [a', b', c'] ++ rest, serial := serial' } }) idle hv
  have hsnap : decodeRow .AH a' ||| decodeRow .IN b' ||| decodeRow .CMD c' = cycleSnapshot s.env := by
    rw [cycleSnapshot_of_pins hpins, decodeRow_congr ha, decodeRow_congr hb, decodeRow_congr hc]
  have start : SeenAlike s { s with
      sr := sr'
      raw := raw'
      env := { s.env with pins := [a', b', c'] ++ rest, serial := serial' } } :=
    ⟨rfl, ⟨rfl, rfl, rfl, rfl, rfl⟩, ⟨rfl, rfl⟩, rfl, rfl, rfl⟩
  have decoded := (start.cycleRead ((cycleSnapshot_of_pins rfl).trans hsnap) read read').transition
  obtain ⟨-, any, -⟩ := decoded.press
  rw [any] at hdone'
  have guarded := decoded.emit (if t.transition.any then [Event.delay .guardDelay] else [])
  exact ⟨_, _, exec_of_done (i := .poll) hdone, exec_of_done (i := .poll) hdone', guarded.out, guarded.press,
    guarded.snapshot, guarded.stop⟩

end Sys2Proof.Machine
end

section
/-! SUPPORT. Sequences of ADVANCEs on complete snapshots: O30 to O33 (spec/42_debounce_fsm.md section 2). -/

namespace Sys2Proof.Machine

/-! ### One ADVANCE on a complete snapshot (R89) -/

/-- The state after one ADVANCE on the complete snapshot `v`. -/
def State.afterAdvance (s : State) (v : ButtonVec) : State := (s.withSnapshot v).transition.advancePhase

theorem exec_advance_afterAdvance (s : State) (v : ButtonVec) :
    exec .advance (s.withSnapshot v) = .next (s.afterAdvance v) :=
  exec_advance_withSnapshot s v

theorem advanceAll_cons_afterAdvance (s : State) (v : ButtonVec) (vs : List ButtonVec) :
    advanceAll (v :: vs) s = advanceAll vs (s.afterAdvance v) :=
  advanceAll_cons s v vs

theorem afterAdvance_stop (s : State) (v : ButtonVec) : (s.afterAdvance v).stop = s.stop :=
  (s.withSnapshot v).transition_kept.stop.1

section NonEmpty
variable {s : State} {v : ButtonVec} (hv : v ≠ 0)
include hv

theorem afterAdvance_of_pressed : s.afterAdvance v = (s.withSnapshot v).pressNew.dropSnapshot.advancePhase := by
  rw [State.afterAdvance, State.transition_of_pressed hv]

theorem afterAdvance_active : (s.afterAdvance v).active = s.active ||| v := by rw [afterAdvance_of_pressed hv]; rfl

theorem afterAdvance_any : (s.afterAdvance v).any = true := by
  rw [afterAdvance_of_pressed hv]
  exact anyAfter_eq_true.2 hv

theorem afterAdvance_out : (s.afterAdvance v).out = s.out ++ (s.withSnapshot v).newKeys.map Event.press := by
  rw [afterAdvance_of_pressed hv]; rfl

theorem afterAdvance_lastKey : (s.afterAdvance v).lastKey = (s.withSnapshot v).newKeys.getLast?.or s.lastKey := by
  rw [afterAdvance_of_pressed hv]; rfl

theorem afterAdvance_pressedOut : (s.afterAdvance v).pressedOut = v &&& ~~~s.active := by
  rw [afterAdvance_of_pressed hv]; rfl

theorem afterAdvance_active_ne_zero : (s.afterAdvance v).active ≠ 0 := by
  rw [afterAdvance_active hv]
  exact fun zero => hv (BitVec.or_eq_zero_iff.1 zero).2

/-- ACTIVE only grows, by the snapshot. -/
theorem active_in_afterAdvance (b : Nat) (hb : s.active.getLsbD b = true) :
    (s.afterAdvance v).active.getLsbD b = true := by
  rw [afterAdvance_active hv, BitVec.getLsbD_or, hb, Bool.true_or]

theorem snapshot_in_afterAdvance : v &&& ~~~(s.afterAdvance v).active = 0 := by
  rw [and_not_eq_zero_iff]
  intro b hb
  rw [afterAdvance_active hv, BitVec.getLsbD_or, hb, Bool.or_true]

/-- A snapshot of buttons that are all active already changes nothing but PRESSED_OUT (R95). -/
theorem afterAdvance_of_held (held : v &&& ~~~s.active = 0) :
    (s.afterAdvance v).out = s.out ∧ (s.afterAdvance v).active = s.active ∧
      (s.afterAdvance v).lastKey = s.lastKey ∧ (s.afterAdvance v).pressedOut = 0 := by
  have nothing : (s.withSnapshot v).newKeys = [] := List.map_eq_nil_iff.2 (pressSequence_eq_nil.2 held)
  refine ⟨?_, ?_, ?_, (afterAdvance_pressedOut hv).trans held⟩
  · rw [afterAdvance_out hv, nothing, List.map_nil, List.append_nil]
  · rw [afterAdvance_active hv]
    apply BitVec.eq_of_getLsbD_eq
    intro b _
    rw [BitVec.getLsbD_or, Bool.or_eq_left_iff_imp]
    exact and_not_eq_zero_iff.1 held b
  · rw [afterAdvance_lastKey hv, nothing]
    rfl

end NonEmpty

theorem afterAdvance_zero (s : State) :
    s.afterAdvance 0 = (s.withSnapshot 0).releaseActive.dropSnapshot.advancePhase := by
  rw [State.afterAdvance, State.transition_of_empty rfl]

/-- An empty snapshot after something was active releases it with one ReleaseAll, under both readings of the parameter
(R91, R96). -/
theorem afterAdvance_zero_of_active {s : State} (ha : s.active ≠ 0) :
    (s.afterAdvance 0).out = s.out ++ [Event.releaseAll] ∧ (s.afterAdvance 0).releasedOut = s.active ∧
      (s.afterAdvance 0).active = 0 ∧ (s.afterAdvance 0).any = false := by
  have released : (s.withSnapshot 0).releaseEvents = [Event.releaseAll] := State.releaseEvents_eq_releaseAll.2 (.inr ha)
  rw [afterAdvance_zero]
  exact ⟨congrArg (s.out ++ ·) released, rfl, rfl, rfl⟩

/-- Settles O31: after the first ADVANCE the snapshot's buttons are all active. -/
theorem noDuplicatePresses : Obligations.NoDuplicatePresses := by
  intro s v hv
  obtain ⟨out, active, lastKey, pressed⟩ := afterAdvance_of_held hv (snapshot_in_afterAdvance (s := s) hv)
  exact ⟨_, _, exec_advance_afterAdvance s v, exec_advance_afterAdvance _ v, pressed, out, active,
    (afterAdvance_any hv).trans (afterAdvance_any hv).symm, lastKey⟩

/-- Settles O32: after a non-empty snapshot something is active. -/
theorem releaseCompleteness : Obligations.ReleaseCompleteness := by
  intro s v hv
  have ha := afterAdvance_active_ne_zero (s := s) hv
  obtain ⟨out, released, active, -⟩ := afterAdvance_zero_of_active ha
  exact ⟨_, _, exec_advance_afterAdvance s v, exec_advance_afterAdvance _ 0, released, by rwa [released], active, out⟩

/-! ### Hold until fully clear (R94) -/

theorem mem_newKeys {s : State} {k : KeyCode} :
    k ∈ s.newKeys ↔ ∃ b, s.newButtons.getLsbD b = true ∧ keymap b = k := by
  simp only [State.newKeys, List.mem_map, (pressSequence_perm _ _ _).mem_iff, mem_buttonsOf]

/-- No active button is pressed again: the keys of the used buttons are all different (R62). -/
theorem keymap_not_mem_newKeys {s : State} {b : Nat} (hs : s.snap &&& ~~~used24 = 0)
    (ha : s.active &&& ~~~used24 = 0) (hb : s.active.getLsbD b = true) : keymap b ∉ s.newKeys := by
  rw [mem_newKeys]
  rintro ⟨c, hnew, hkey⟩
  rw [State.newButtons, BitVec.getLsbD_and, Bool.and_eq_true, BitVec.getLsbD_not] at hnew
  obtain ⟨hc, inactive⟩ := hnew
  obtain rfl := keymap_injOn_used24 (and_not_eq_zero_iff.1 hs c hc) (and_not_eq_zero_iff.1 ha b hb) hkey
  simp [hb] at inactive

/-- Settles O30, by induction on the snapshots: each one's presses are of buttons not yet active, and all of them are
active afterwards. -/
theorem holdUntilFullyClear : Obligations.HoldUntilFullyClear := by
  intro vs
  induction vs with
  | nil =>
    intro s _ _
    exact ⟨s, [], rfl, (List.append_nil _).symm, BitVec.and_not_self _, nofun, nofun, fun _ _ => nofun⟩
  | cons v vs ih =>
    intro s hvs ha
    obtain ⟨hv, hused⟩ := hvs v List.mem_cons_self
    have active_used : (s.afterAdvance v).active &&& ~~~used24 = 0 := by
      rw [afterAdvance_active hv]
      exact or_and_not_eq_zero ha hused
    obtain ⟨t, evs, hrun, hout, grows, taken, no_release, no_press⟩ :=
      ih (s.afterAdvance v) (fun w hw => hvs w (List.mem_cons_of_mem v hw)) active_used
    rw [and_not_eq_zero_iff] at grows
    refine ⟨t, (s.withSnapshot v).newKeys.map Event.press ++ evs, ?_, ?_, ?_, ?_, ?_, ?_⟩
    · rw [advanceAll_cons_afterAdvance, hrun]
    · rw [hout, afterAdvance_out hv, List.append_assoc]
    · rw [and_not_eq_zero_iff]
      exact fun b hb => grows b (active_in_afterAdvance hv b hb)
    · intro w hw
      obtain rfl | hw := List.mem_cons.1 hw
      · have now := snapshot_in_afterAdvance (s := s) hv
        rw [and_not_eq_zero_iff] at now ⊢
        exact fun b hb => grows b (now b hb)
      · exact taken w hw
    · simp [no_release]
    · intro b hb
      rw [List.mem_append, not_or]
      refine ⟨?_, no_press b (active_in_afterAdvance hv b hb)⟩
      rw [List.mem_map_of_injective fun _ _ => Event.press.inj]
      exact keymap_not_mem_newKeys (s := s.withSnapshot v) hused ha hb

/-! ### One button pressed, held and released (R97) -/

/-- Held for `n` cycles, a snapshot of active buttons emits nothing. -/
theorem advanceAll_replicate_held {v : ButtonVec} (hv : v ≠ 0) (n : Nat) {s : State} (held : v &&& ~~~s.active = 0)
    (rest : List ButtonVec) :
    ∃ t, advanceAll (List.replicate n v ++ rest) s = advanceAll rest t ∧ t.out = s.out ∧ t.active = s.active := by
  induction n generalizing s with
  | zero => exact ⟨s, rfl, rfl, rfl⟩
  | succ n ih =>
    obtain ⟨out, active, -, -⟩ := afterAdvance_of_held hv held
    obtain ⟨t, hrun, hout, hactive⟩ := ih (s := s.afterAdvance v) (by rwa [active])
    refine ⟨t, ?_, hout.trans out, hactive.trans active⟩
    rw [List.replicate_succ, List.cons_append, advanceAll_cons_afterAdvance, hrun]

theorem advanceGuard_active (s : State) (v : ButtonVec) : (s.advanceGuard v).active = (s.afterAdvance v).active := rfl

theorem advanceGuard_stop (s : State) (v : ButtonVec) : (s.advanceGuard v).stop = s.stop := afterAdvance_stop s v

/-- The cycle's GUARD waits exactly while something is active (R93). -/
theorem advanceGuard_out (s : State) (v : ButtonVec) :
    (s.advanceGuard v).out =
      (s.afterAdvance v).out ++ if (s.afterAdvance v).any then [Event.delay .guardDelay] else [] := rfl

/-- With the cycle's GUARD, a held snapshot emits one Delay per cycle. -/
theorem advanceGuardAll_replicate_held {v : ButtonVec} (hv : v ≠ 0) (n : Nat) {s : State} (h0 : s.stop = 0)
    (held : v &&& ~~~s.active = 0) (rest : List ButtonVec) :
    ∃ t, advanceGuardAll (List.replicate n v ++ rest) s = advanceGuardAll rest t ∧ t.stop = 0 ∧
      t.out = s.out ++ List.replicate n (Event.delay .guardDelay) ∧ t.active = s.active := by
  induction n generalizing s with
  | zero => exact ⟨s, rfl, h0, (List.append_nil _).symm, rfl⟩
  | succ n ih =>
    obtain ⟨out, active, -, -⟩ := afterAdvance_of_held hv held
    obtain ⟨t, hrun, hstop, hout, hactive⟩ := ih (s := s.advanceGuard v) ((advanceGuard_stop s v).trans h0)
      (by rwa [advanceGuard_active, active])
    refine ⟨t, ?_, hstop, ?_, hactive.trans active⟩
    · rw [List.replicate_succ, List.cons_append, advanceGuardAll_cons h0, hrun]
    · rw [hout, advanceGuard_out, afterAdvance_any hv, if_pos rfl, out, List.append_assoc, List.replicate_succ,
        List.singleton_append]

theorem buttonsOf_single {b : Nat} (hb : b < 24) : buttonsOf (1#24 <<< b) = [b] := by
  have each : ∀ c : Fin 24, buttonsOf (1#24 <<< c.val) = [c.val] := by decide
  exact each ⟨b, hb⟩

theorem single_ne_zero {b : Nat} (hb : b < 24) : 1#24 <<< b ≠ 0 := by
  rw [Ne, ← buttonsOf_eq_nil, buttonsOf_single hb]
  exact List.cons_ne_nil _ _

/-- One button pressed with nothing active is one Press, in every order of presses (R97). -/
theorem afterAdvance_single_out {b : Nat} {s : State} (hb : b < 24) (ha : s.active = 0) :
    (s.afterAdvance (1#24 <<< b)).out = s.out ++ [Event.press (keymap b)] := by
  have new : (s.withSnapshot (1#24 <<< b)).newButtons = 1#24 <<< b := by
    show 1#24 <<< b &&& ~~~s.active = _
    rw [ha]
    exact BitVec.and_allOnes
  have keys : (s.withSnapshot (1#24 <<< b)).newKeys = [keymap b] := by
    have order := pressSequence_perm (s.withSnapshot (1#24 <<< b)).params.pressOrder s.env.count (1#24 <<< b)
    rw [buttonsOf_single hb, List.perm_singleton] at order
    rw [State.newKeys, new, State.withSnapshot_env, order]
    rfl
  rw [afterAdvance_out (single_ne_zero hb), keys]
  rfl

/-- Settles O33: the first cycle presses the button, the held ones emit nothing but their Delay, and the last releases
what is active. -/
theorem pressHoldReleaseRoundTrip : Obligations.PressHoldReleaseRoundTrip := by
  intro n b s hb h0 ha
  have hv := single_ne_zero hb
  have pressed := afterAdvance_single_out (s := s) hb ha
  have held := snapshot_in_afterAdvance (s := s) hv
  have active := afterAdvance_active_ne_zero (s := s) hv
  obtain ⟨t, trun, tout, tactive⟩ := advanceAll_replicate_held hv n held [0]
  obtain ⟨u, urun, ustop, uout, uactive⟩ := advanceGuardAll_replicate_held hv n
    (s := s.advanceGuard (1#24 <<< b)) ((advanceGuard_stop s _).trans h0) held [0]
  obtain ⟨treleased, -⟩ := afterAdvance_zero_of_active (s := t) (by rwa [tactive])
  obtain ⟨ureleased, -, -, quiet⟩ := afterAdvance_zero_of_active (s := u) (by rwa [uactive])
  have trace : (u.advanceGuard 0).out =
      s.out ++ ([Event.press (keymap b)] ++
        (List.replicate (n + 1) (Event.delay .guardDelay) ++ [Event.releaseAll])) := by
    rw [advanceGuard_out, quiet, if_neg Bool.false_ne_true, ureleased, uout, advanceGuard_out, afterAdvance_any hv,
      if_pos rfl, pressed, List.replicate_succ]
    simp only [List.append_assoc, List.append_nil, List.cons_append, List.nil_append]
  refine ⟨t.afterAdvance 0, u.advanceGuard 0, ?_, ?_, ?_, trace, ?_⟩
  · rw [List.replicate_succ, List.cons_append, advanceAll_cons_afterAdvance, trun, advanceAll_cons_afterAdvance]
    rfl
  · rw [treleased, tout, pressed, List.append_assoc]
    rfl
  · rw [List.replicate_succ, List.cons_append, advanceGuardAll_cons h0, urun, advanceGuardAll_cons ustop]
    rfl
  · have silent : transportCalls (List.replicate (n + 1) (Event.delay .guardDelay)) = [] :=
      List.filterMap_replicate_of_none rfl
    rw [trace, transportCalls_append, transportCalls_append, transportCalls_append, silent]
    rfl

end Sys2Proof.Machine
end
